-- ==== Sys2Proof/Word.lean ====
section
/-! DEFINITION. The two bit-vector types of the block: bytes and words (00_scope.md R11). -/

namespace Sys2Proof

/-- A byte, an integer 0..255 (00_scope.md R11). -/
abbrev Byte := BitVec 8

/-- A word, an integer 0..2³²−1 (00_scope.md R11). -/
abbrev Word := BitVec 32

end Sys2Proof
end

