-- ==== Sys2Proof/Syntax.lean ====
section
/-! DEFINITION. The thirteen commands of the block (30_encoding.md R85), one constructor for each row
of spec/opcode_table.json. -/

namespace Sys2Proof

/-- A command. A sequence number operand is the integer `sn ≥ 0` of 41_header.md R130; a data or
header byte is a byte; flag operands are single bits (30_encoding.md R84). -/
inductive Instr where
  /-- `SRESET` (45_system.md R230). -/
  | sreset
  /-- `FNV_INIT` (40_checksum.md R115). -/
  | fnvInit
  /-- `FNV_UPDATE b` (40_checksum.md R116). -/
  | fnvUpdate (b : Byte)
  /-- `FNV_BLOCK` (40_checksum.md R117). -/
  | fnvBlock
  /-- `CKS_COPY` (40_checksum.md R118). -/
  | cksCopy
  /-- `CKS_VALIDATE` (40_checksum.md R119). -/
  | cksValidate
  /-- `HDR_PACK sn, bin, first, last` (41_header.md R132). -/
  | hdrPack (sn : Nat) (bin first last : Bool)
  /-- `HDR_UNPACK h` (41_header.md R133). -/
  | hdrUnpack (h : Byte)
  /-- `BIN_DETECT` (42_base64.md R141). -/
  | binDetect
  /-- `B64_ENC` (42_base64.md R147). -/
  | b64Enc
  /-- `B64_DEC` (42_base64.md R148). -/
  | b64Dec
  /-- `CHUNK_TX sn, first, last` (43_frame_tx.md R171). -/
  | chunkTx (sn : Nat) (first last : Bool)
  /-- `CHUNK_RX` (44_frame_rx.md R191). -/
  | chunkRx
deriving DecidableEq, Repr

end Sys2Proof
end

