-- ==== Sys2Proof/WellFormed.lean ====
section
/-! DEFINITION. Which commands have an encoding: the operands that fit their fields. -/

namespace Sys2Proof

/-- A command is well formed when its operands fit the fields of the command word: a sequence number
before masking stands in the 8-bit field `A`, "any value 0..255" (30_encoding.md R80, R84). Bytes
and flags always fit. -/
def Instr.wf : Instr → Bool
  | .sreset => true
  | .fnvInit => true
  | .fnvUpdate _ => true
  | .fnvBlock => true
  | .cksCopy => true
  | .cksValidate => true
  | .hdrPack sn _ _ _ => decide (sn < 256)
  | .hdrUnpack _ => true
  | .binDetect => true
  | .b64Enc => true
  | .b64Dec => true
  | .chunkTx sn _ _ => decide (sn < 256)
  | .chunkRx => true

end Sys2Proof
end

