-- ==== Sys2Proof/Decode.lean ====
section
/-! DEFINITION. Decoding and encoding of the 32-bit command word (30_encoding.md R80 to R87). -/

namespace Sys2Proof

/-- Why a command word is illegal (30_encoding.md R86). -/
inductive DecodeError where
  /-- "an `OP` not in the table". -/
  | unknownOpcode
  /-- "a non-zero bit in a must-be-zero field", of the command named by `OP`. -/
  | nonzeroField (mnemonic : String)
deriving DecidableEq, Repr

/-- Field `OP`, bits 7:0 (30_encoding.md R80). -/
def fieldOp (w : Word) : Byte := w.extractLsb' 0 8

/-- Field `A`, bits 15:8. -/
def fieldA (w : Word) : Byte := w.extractLsb' 8 8

/-- Field `FB`, bit 16. -/
def fieldFB (w : Word) : Bool := w.getLsbD 16

/-- Field `FF`, bit 17. -/
def fieldFF (w : Word) : Bool := w.getLsbD 17

/-- Field `FL`, bit 18. -/
def fieldFL (w : Word) : Bool := w.getLsbD 18

/-- One row of the opcode map as a match/mask pair (30_encoding.md R85). -/
structure OpcodeRow where
  mnemonic : String
  value : Word
  mask : Word
  operands : Word → Instr

/-- "A word `w` selects a row when `w & mask = match`" (30_encoding.md R85). -/
def OpcodeRow.selects (r : OpcodeRow) (w : Word) : Bool := w &&& r.mask == r.value

/-- The mask of format `Z` (30_encoding.md R81, R85). -/
def maskZ : Word := 0xFFFFFFFF#32

/-- The mask of format `A` (30_encoding.md R82, R85). -/
def maskA : Word := 0xFFFF00FF#32

/-- The mask of format `AF` (30_encoding.md R83, R85). -/
def maskAF : Word := 0xFFF800FF#32

/-- The mask of format `AF` with `FB = 0`, of `CHUNK_TX` (30_encoding.md R83, R85). -/
def maskAFnoFB : Word := 0xFFF900FF#32

/-- The opcode map (30_encoding.md R85). -/
def opcodeTable : List OpcodeRow :=
  [ ⟨"SRESET", 0x01#32, maskZ, fun _ => .sreset⟩,
    ⟨"FNV_INIT", 0x10#32, maskZ, fun _ => .fnvInit⟩,
    ⟨"FNV_UPDATE", 0x11#32, maskA, fun w => .fnvUpdate (fieldA w)⟩,
    ⟨"FNV_BLOCK", 0x12#32, maskZ, fun _ => .fnvBlock⟩,
    ⟨"CKS_COPY", 0x13#32, maskZ, fun _ => .cksCopy⟩,
    ⟨"CKS_VALIDATE", 0x14#32, maskZ, fun _ => .cksValidate⟩,
    ⟨"HDR_PACK", 0x20#32, maskAF,
      fun w => .hdrPack (fieldA w).toNat (fieldFB w) (fieldFF w) (fieldFL w)⟩,
    ⟨"HDR_UNPACK", 0x21#32, maskA, fun w => .hdrUnpack (fieldA w)⟩,
    ⟨"BIN_DETECT", 0x30#32, maskZ, fun _ => .binDetect⟩,
    ⟨"B64_ENC", 0x31#32, maskZ, fun _ => .b64Enc⟩,
    ⟨"B64_DEC", 0x32#32, maskZ, fun _ => .b64Dec⟩,
    ⟨"CHUNK_TX", 0x40#32, maskAFnoFB,
      fun w => .chunkTx (fieldA w).toNat (fieldFF w) (fieldFL w)⟩,
    ⟨"CHUNK_RX", 0x41#32, maskZ, fun _ => .chunkRx⟩ ]

/-- Why a word that selects no row is illegal: its `OP` names a command or it does not. -/
def illegalReason (w : Word) : DecodeError :=
  match opcodeTable.find? (fun r => fieldOp r.value == fieldOp w) with
  | some r => .nonzeroField r.mnemonic
  | none => .unknownOpcode

/-- The decoder, total on any word (30_encoding.md R85, R86). -/
def decodeWord (w : Word) : Except DecodeError Instr :=
  match opcodeTable.find? (fun r => r.selects w) with
  | some r => .ok (r.operands w)
  | none => .error (illegalReason w)

/-- A command word from its fields (30_encoding.md R80). -/
def assemble (op : Byte) (a : Byte) (fb ff fl : Bool) : Word :=
  0#13 ++ BitVec.ofBool fl ++ BitVec.ofBool ff ++ BitVec.ofBool fb ++ a ++ op

/-- The command word of a well-formed command (30_encoding.md R80 to R85). -/
def encode : Instr → Word
  | .sreset => assemble 0x01#8 0#8 false false false
  | .fnvInit => assemble 0x10#8 0#8 false false false
  | .fnvUpdate b => assemble 0x11#8 b false false false
  | .fnvBlock => assemble 0x12#8 0#8 false false false
  | .cksCopy => assemble 0x13#8 0#8 false false false
  | .cksValidate => assemble 0x14#8 0#8 false false false
  | .hdrPack sn bin first last => assemble 0x20#8 (BitVec.ofNat 8 sn) bin first last
  | .hdrUnpack h => assemble 0x21#8 h false false false
  | .binDetect => assemble 0x30#8 0#8 false false false
  | .b64Enc => assemble 0x31#8 0#8 false false false
  | .b64Dec => assemble 0x32#8 0#8 false false false
  | .chunkTx sn first last => assemble 0x40#8 (BitVec.ofNat 8 sn) false first last
  | .chunkRx => assemble 0x41#8 0#8 false false false

/-- What the decoder reads from a command whose low `nbits` bits are those of `w` and whose other
bits are 0. A command is one 32-bit number written to `CMD`: "registers are 32-bit numbers at
transaction level, so they have no byte order" (20_memory.md R62 e; log 17). -/
def decodeTableWord (nbits w : Nat) : Option Instr :=
  (decodeWord (BitVec.ofNat 32 (w % 2 ^ nbits))).toOption

end Sys2Proof
end

