-- ==== Sys2Proof/Config.lean ====
section
/-! DEFINITION. The static configuration record `Cfg` (00_scope.md R5 to R8) and the free values of
the block: what the spec leaves open and no Lean proof can evaluate. -/

namespace Sys2Proof

/-- The checksum tag width `TAGW`, "3 or 4" bytes (00_scope.md R5). -/
inductive TagWidth where
  | three
  | four
deriving DecidableEq, Repr

/-- `TAGW` as a number of bytes. -/
def TagWidth.bytes : TagWidth → Nat
  | .three => 3
  | .four => 4

/-- The fields of the configuration record `Cfg` (00_scope.md R5), not yet checked. -/
structure CfgData where
  /-- `TAGW`: checksum tag width. -/
  tagw : TagWidth
  /-- `M`: maximum payload bytes per chunk. -/
  m : Nat
  /-- `N`: maximum chunks per frame. -/
  n : Nat
  /-- `MTU`: maximum transport atomic-write size. -/
  mtu : Nat
  /-- `B64_EN`: whether base64 transcoding is enabled in `CHUNK_TX` and `CHUNK_RX`. -/
  b64En : Bool
  /-- `SENT_END`: the message-end marker. -/
  sentEnd : Byte
  /-- `SENT_BEGIN`: the optional message-begin marker. -/
  sentBegin : Option Byte
  /-- `SENT_ENC`: the tag that marks the start of an encoded payload. -/
  sentEnc : Byte
  /-- `IBUF_SIZE`: bytes in the input buffer. -/
  ibufSize : Nat
  /-- `OBUF_SIZE`: bytes in the output buffer. -/
  obufSize : Nat
deriving DecidableEq, Repr

/-- `B64Len(n) = 4 × ceil(n / 3)` (00_scope.md R6). -/
def b64Len (n : Nat) : Nat := 4 * ((n + 2) / 3)

namespace CfgData

/-- `MAXF = M × N`, the maximum frame length and the size of RBUF (00_scope.md R6). -/
def maxf (c : CfgData) : Nat := c.m * c.n

/-- `PlainLen(p) = 1 + p + TAGW` (00_scope.md R6). -/
def plainLen (c : CfgData) (p : Nat) : Nat := 1 + p + c.tagw.bytes

/-- `EncLen(p) = 1 + B64Len(PlainLen(p))` (00_scope.md R6). -/
def encLen (c : CfgData) (p : Nat) : Nat := 1 + b64Len (c.plainLen p)

/-- `WireMax`, the longest wire chunk the send path makes (00_scope.md R6). -/
def wireMax (c : CfgData) : Nat := if c.b64En then c.encLen c.m else c.plainLen c.m

/-- The values of `CFG2` to `CFG5` fit their 32-bit registers: "a configuration whose value does not
fit a word is outside this spec" (10_state.md R42; log 2). `MAXF` need not fit one. -/
def fitsWords (c : CfgData) : Bool :=
  decide (c.m < 2 ^ 32) && decide (c.mtu < 2 ^ 32) && decide (c.ibufSize < 2 ^ 32) &&
    decide (c.obufSize < 2 ^ 32)

/-- `CfgWF(Cfg)` (00_scope.md R7), with `fitsWords` of 10_state.md R42. `TAGW ∈ {3, 4}` holds by the
type `TagWidth`. -/
def wf (c : CfgData) : Bool :=
  decide (1 ≤ c.m) && decide (1 ≤ c.n) && decide (c.n ≤ 32) && decide (c.wireMax ≤ c.mtu) &&
    decide (c.mtu ≤ c.ibufSize) && decide (c.mtu ≤ c.obufSize) && c.fitsWords

/-- `PlainHdr(N)`, the header bytes the send path puts on plain chunks (00_scope.md R8):
`0x40`, `0xC0`, and `k` and `0x80 + k` for `1 ≤ k ≤ N − 1`. -/
def plainHdr (c : CfgData) (h : Byte) : Bool :=
  h == 0x40#8 || h == 0xC0#8 ||
    (decide (1 ≤ h.toNat) && decide (h.toNat ≤ c.n - 1)) ||
    (decide (0x80 + 1 ≤ h.toNat) && decide (h.toNat ≤ 0x80 + (c.n - 1)))

/-- `RTSafe(Cfg)`: `B64_EN = 0` or `SENT_ENC ∉ PlainHdr(N)` (00_scope.md R8). -/
def rtSafe (c : CfgData) : Bool := !c.b64En || !c.plainHdr c.sentEnc

/-- The sentinel set `Sent` (42_base64.md R140). -/
def sentinels (c : CfgData) : List Byte := [c.sentEnd, c.sentEnc] ++ c.sentBegin.toList

end CfgData

/-- A well formed configuration. The record carries its own check, so that the model is defined for
no other one (93_implementation_defined.md U1: "a model refuses such a configuration"; log 3). -/
structure Cfg extends CfgData where
  wf : toCfgData.wf = true
deriving DecidableEq, Repr

/-- Example configuration EX1 (95_test_vectors.md section 0). -/
def Cfg.ex1 : Cfg where
  tagw := .three
  m := 5
  n := 32
  mtu := 20
  b64En := true
  sentEnd := 0x00#8
  sentBegin := some 0x01#8
  sentEnc := 0xFE#8
  ibufSize := 64
  obufSize := 64
  wf := by decide

/-- FREE VALUE. The byte `IBUF[i]` holds from hardware reset until the host first writes it: "a byte
never written since hardware reset holds an unspecified value" (10_state.md R26;
93_implementation_defined.md U3 `any value`; log 7). No body: nothing can be proved of it. -/
opaque Config.ibufPowerOn : Nat → Byte

/-- FREE VALUE. The byte a host read of an unspecified `OBUF` or `RBUF` byte returns, drawn afresh by
each transaction: the argument is `State.served` (10_state.md R27, R28;
93_implementation_defined.md U3 `any value`; log 6). No body: nothing can be proved of it. -/
opaque Config.unspecifiedRead : Nat → Byte

/-- FREE VALUE. The word `RXLEN` reads while `RLEN` is a length that no word holds (`MAXF` may be
2³² or more): the spec states no value (10_state.md R30, R41; log 26). No body: nothing can be
proved of it. -/
opaque Config.wideRlen : Nat → Word

/-- FREE VALUE. The word `MSGLEN` reads while `MSG_LEN` is a length that no word holds: the spec
states no value (10_state.md R33, R41; log 26). No body: nothing can be proved of it. -/
opaque Config.wideMsgLen : Nat → Word

end Sys2Proof
end

