-- ==== Sys2Proof/Machine/Fnv.lean ====
section
/-! DEFINITION. The checksum functions: FNV-1a-32 step and fold, tag and validation
(40_checksum.md R110 to R114). -/

namespace Sys2Proof.Machine

/-- `FNV_OFFSET` (40_checksum.md R110). -/
def fnvOffset : Word := 2166136261#32

/-- `FNV_PRIME` (40_checksum.md R110). -/
def fnvPrime : Word := 16777619#32

/-- `FnvUp(b, h) = ((h xor zext_32(b)) × FNV_PRIME) mod 2³²` (40_checksum.md R111). -/
def fnvUp (b : Byte) (h : Word) : Word := (h ^^^ b.setWidth 32) * fnvPrime

/-- `FnvBuf(s, h)`, the fold of a byte string in index order (40_checksum.md R112). -/
def fnvBuf : List Byte → Word → Word
  | [], h => h
  | b :: s, h => fnvBuf s (fnvUp b h)

/-- `Tag(h)`: four little-endian hash bytes, or three with the two most significant ones folded
(40_checksum.md R113). -/
def tag (w : TagWidth) (h : Word) : List Byte :=
  let hb0 : Byte := h.extractLsb' 0 8
  let hb1 : Byte := h.extractLsb' 8 8
  let hb2 : Byte := h.extractLsb' 16 8
  let hb3 : Byte := h.extractLsb' 24 8
  match w with
  | .three => [hb0, hb1, hb2 ^^^ hb3]
  | .four => [hb0, hb1, hb2, hb3]

/-- `Validate(s)`: the trailing tag is that of the bytes before it; a string of `TAGW` bytes or fewer
is invalid (40_checksum.md R114). -/
def validate (w : TagWidth) (s : List Byte) : Bool :=
  if s.length ≤ w.bytes then false
  else tag w (fnvBuf (s.take (s.length - w.bytes)) fnvOffset) == s.drop (s.length - w.bytes)

end Sys2Proof.Machine
end

