-- ==== Sys2Proof/Machine/State.lean ====
section
/-! DEFINITION. The state of the block (10_state.md R20 to R37), the host's transactions that stand
before it (20_memory.md R61), the reasons a step can stop, and the state after reset (R47). -/

namespace Sys2Proof.Machine

/-- One byte buffer (20_memory.md R60): (index, byte) pairs with indices strictly rising. An index
that is not listed holds no specified byte (log 8). -/
abbrev Memory := List Host.Cell

/-- What an unlisted index holds: no specified byte (10_state.md R47 "unspecified"; log 8). -/
abbrev Memory.unlisted : Option Byte := none

/-- The canonical form: indices strictly rising (so no index twice). An entry holds a byte, so none
equals what an unlisted index holds. -/
abbrev Memory.wf (m : Memory) : Prop := m.Pairwise (fun c d => c.1 < d.1)

/-- The reassembler's two stored states (10_state.md R29). -/
inductive RState where
  /-- `IDLE`: no open frame. -/
  | idle
  /-- `ACC`: frame opened, collecting chunks. -/
  | acc
deriving DecidableEq, Repr

/-- The cause of the last command's end (60_exceptions.md R250); "codes 9 to 255 are never
produced". -/
inductive Cause where
  /-- 0 `NONE`: the command completed. -/
  | none
  /-- 1 `E_DECODE`: malformed base64. -/
  | decode
  /-- 2 `E_INTEGRITY`: checksum mismatch or a block of `TAGW` bytes or fewer. -/
  | integrity
  /-- 3 `E_SEQ_NOFRAME`: valid non-first chunk while `IDLE`. -/
  | seqNoFrame
  /-- 4 `E_SEQ_GAP`: valid non-first chunk whose `sn ≠ EXP_SN`. -/
  | seqGap
  /-- 5 `E_SEQ_FIRST`: valid first chunk whose `sn ≠ 0`. -/
  | seqFirst
  /-- 6 `E_OVERFLOW`: overflow of the reassembly buffer. -/
  | overflow
  /-- 7 `E_SIZE`: an operand or result does not fit its bound. -/
  | size
  /-- 8 `E_ILLEGAL`: the word is not a command. -/
  | illegal
deriving DecidableEq, Repr

/-- The address spaces (20_memory.md R60). -/
inductive Space where
  | csr
  | ibuf
  | obuf
  | rbuf
deriving DecidableEq, Repr

/-- The host transactions (20_memory.md R61), and the host write to OBUF that is "ignored"
(10_state.md R27; log 10). -/
inductive Txn where
  | csrRead (i : Nat)
  | csrWrite (i : Nat) (w : Word)
  | ibufWrite (i : Nat) (b : Byte)
  | ibufRead (i : Nat)
  | obufRead (i : Nat)
  | obufWrite (i : Nat) (b : Byte)
  | rbufRead (i : Nat)
deriving DecidableEq, Repr

/-- What a read transaction returns to the host (20_memory.md R61, R64). -/
inductive Response where
  | word (w : Word)
  | byte (b : Byte)
deriving DecidableEq, Repr

/-- The state of the block. -/
structure State where
  /-- The configuration of this block, a parameter no step changes (00_scope.md R5; log 1). -/
  cfg : Cfg
  /-- `HASH`, the FNV-1a accumulator (10_state.md R21). -/
  hash : Word
  /-- `RES`, the result register (10_state.md R22). -/
  res : Word
  /-- `ILEN`, the declared input length (10_state.md R23). -/
  ilen : Word
  /-- `OLEN`, the number of valid output bytes (10_state.md R24). -/
  olen : Word
  /-- `OMAX`, the caller-supplied maximum output length (10_state.md R25). -/
  omax : Word
  /-- `IBUF`, the input buffer (10_state.md R26). -/
  ibuf : Memory
  /-- `OBUF`, the output buffer (10_state.md R27). -/
  obuf : Memory
  /-- `RBUF`, the reassembly buffer (10_state.md R28). -/
  rbuf : Memory
  /-- `RSTATE`, the reassembler state (10_state.md R29). -/
  rstate : RState
  /-- `RLEN`, bytes accumulated for the open frame (10_state.md R30). -/
  rlen : Nat
  /-- `EXP_SN`, the 5-bit expected next sequence number (10_state.md R31). -/
  expSn : BitVec 5
  /-- `FRAME_BIN`, the open frame's binary flag (10_state.md R32). -/
  frameBin : Bool
  /-- `MSG_VALID`, a delivered message stands in RBUF (10_state.md R33). -/
  msgValid : Bool
  /-- `MSG_LEN`, the delivered message's length (10_state.md R33). -/
  msgLen : Nat
  /-- `MSG_BIN`, the delivered message's binary flag (10_state.md R33). -/
  msgBin : Bool
  /-- `CAUSE`, the cause of the last command (10_state.md R34). -/
  cause : Cause
  /-- `DISC`, the last command discarded an open frame (10_state.md R35). -/
  disc : Bool
  /-- MODEL's own: the transactions the host has still to perform, the next one first
  (00_scope.md R10, 10_state.md R46; log 4). -/
  pending : List Txn
  /-- MODEL's own: what the last transaction returned to the host, if it was a read (log 5). -/
  response : Option Response
  /-- MODEL's own: how many transactions have been performed, the argument of the free value a read
  of an unspecified byte draws (log 6). -/
  served : Nat
deriving DecidableEq, Repr

/-- The reasons a step stops with a fault. -/
inductive Fault where
  /-- Raised by a host transaction whose index is outside its space: "a transaction with an index
  outside the space's size is not defined" (20_memory.md R61; 93_implementation_defined.md U4;
  log 9). Safe: the model stops where the spec defines nothing. -/
  | noSuchIndex (space : Space) (index : Nat)
deriving DecidableEq, Repr

/-- The reasons the model has no meaning for a step. -/
inductive Refusal where
  /-- Raised by `exec` for a command without a meaning; no command is left without one. Safe. -/
  | notModelled (mnemonic : String)
deriving DecidableEq, Repr

/-- The state after hardware reset of a block with configuration `c` (10_state.md R47;
70_reset_and_hazards.md R290, R291), before the host has any transaction to perform. -/
def State.resetOf (c : Cfg) : State where
  cfg := c
  hash := 0x811C9DC5#32
  res := 0#32
  ilen := 0#32
  olen := 0#32
  omax := BitVec.ofNat 32 c.obufSize
  ibuf := []
  obuf := []
  rbuf := []
  rstate := .idle
  rlen := 0
  expSn := 0#5
  frameBin := false
  msgValid := false
  msgLen := 0
  msgBin := false
  cause := .none
  disc := false
  pending := []
  response := .none
  served := 0

/-- The machine right after hardware reset. DESIGN CHOICE (log 1): the spec gives the configuration
no value, so this block is built with example EX1 of 95_test_vectors.md; unsafe if a claim about
every block were stated about this state, so claims are stated about `State.resetOf` or every state. -/
def State.reset : State := State.resetOf Cfg.ex1

end Sys2Proof.Machine
end

