-- ==== Sys2Proof/Machine/Operands.lean ====
section
/-! DEFINITION. The operand forms of the commands: bytes of a buffer, the input string
`IBUF[0..ILEN)`, the output bound, and immediates widened to a word. -/

namespace Sys2Proof.Machine

/-- The byte a buffer holds at an index, if a specified one stands there. -/
def Memory.readByte : Memory → Nat → Option Byte
  | [], _ => Memory.unlisted
  | (k, b) :: rest, a => if k = a then some b else Memory.readByte rest a

/-- `IBUF[i]` as commands and the host read it: the byte last written, or the unspecified byte it
holds since hardware reset (10_state.md R26; 93_implementation_defined.md U3; log 7). -/
def inputByte (s : State) (i : Nat) : Byte := (s.ibuf.readByte i).getD (Config.ibufPowerOn i)

/-- The input string `IBUF[0..ILEN)` (10_state.md R23; 00_scope.md R13 `MemRead`). -/
def inputString (s : State) : List Byte := (List.range s.ilen.toNat).map (inputByte s)

/-- `OBOUND = min(OMAX, OBUF_SIZE)` (00_scope.md R6, 10_state.md R25). -/
def obound (s : State) : Nat := min s.omax.toNat s.cfg.obufSize

/-- `zext_32(b)` (00_scope.md R11, 30_encoding.md R84). -/
def zext (b : Byte) : Word := b.setWidth 32

/-- A verdict as the word 0 or 1 (00_scope.md R11). -/
def boolWord (b : Bool) : Word := if b then 1#32 else 0#32

/-- A length as a word (`OLEN <- len(r)`, 42_base64.md R147, R148). -/
def lenWord (n : Nat) : Word := BitVec.ofNat 32 n

end Sys2Proof.Machine
end

