-- ==== Sys2Proof/Machine/Ops.lean ====
section
/-! DEFINITION. The named operations over buffers and registers that the commands share: writing
bytes, forgetting bytes that become unspecified, `raise` (the block's taking of an exception, which
has no return: 60_exceptions.md R263), success, and producing output. -/

namespace Sys2Proof.Machine

/-- One byte written into a buffer, every other byte unchanged. -/
def Memory.writeByte : Memory → Nat → Byte → Memory
  | [], a, b => [(a, b)]
  | (k, v) :: rest, a, b =>
    if a < k then (a, b) :: (k, v) :: rest
    else if a = k then (a, b) :: rest
    else (k, v) :: Memory.writeByte rest a b

/-- `MemWrite(S, i, s)` (00_scope.md R13), in increasing index order (45_system.md R239). -/
def Memory.writeBytes : Memory → Nat → List Byte → Memory
  | m, _, [] => m
  | m, a, b :: bs => Memory.writeBytes (m.writeByte a b) (a + 1) bs

/-- The bytes below `n` become unspecified (10_state.md R27, R47; 45_system.md R233). -/
def Memory.forgetBelow (m : Memory) (n : Nat) : Memory := m.filter (fun c => decide (n ≤ c.1))

/-- `raise E with DISC <- d`: `CAUSE <- E`, `RES <- 0`, `DISC <- d`; what was assigned before stands
and control goes nowhere (45_system.md R233, 60_exceptions.md R262). -/
def raise (c : Cause) (d : Bool) (s : State) : State :=
  { s with cause := c, res := 0#32, disc := d }

/-- `raise E` in a producing command: also `OLEN <- 0`, and `OBUF[0..OBOUND)` becomes unspecified
(45_system.md R233). -/
def raiseProducing (c : Cause) (s : State) : State :=
  raise c false { s with olen := 0#32, obuf := s.obuf.forgetBelow (obound s) }

/-- The end of a command that succeeds: `RES <- r`, `CAUSE <- 0`, `DISC <- d` (45_system.md R234). -/
def succeed (r : Word) (d : Bool) (s : State) : State :=
  { s with res := r, cause := .none, disc := d }

/-- A producing command's success: `OBUF[0..len(out))` is the output, `OLEN` its length, the rest of
`OBUF[0..OBOUND)` is unspecified and what lies beyond is unchanged (10_state.md R24, R27). -/
def produce (out : List Byte) (r : Word) (s : State) : State :=
  succeed r false
    { s with obuf := (s.obuf.forgetBelow (obound s)).writeBytes 0 out, olen := lenWord out.length }

/-- The output bound: a producing command whose output would be longer than `OBOUND` fails with
`E_SIZE` and no output (20_memory.md R73, 60_exceptions.md R257). -/
def produceBounded (out : List Byte) (r : Word) (s : State) : State :=
  if obound s < out.length then raiseProducing .size s else produce out r s

/-- The input bound: a command whose operand is the input string first checks `ILEN ≤ IBUF_SIZE`
and otherwise ends as `onSize`, having read nothing (20_memory.md R72). -/
def withInput (s onSize : State) (k : List Byte → State) : State :=
  if s.cfg.ibufSize < s.ilen.toNat then onSize else k (inputString s)

/-- An illegal command word records `E_ILLEGAL` and changes nothing else (45_system.md R232). -/
def illegalCommand (s : State) : State := raise .illegal false s

end Sys2Proof.Machine
end

