-- ==== Sys2Proof/Machine/Checksum.lean ====
section
/-! DEFINITION. The commands of the Checksum Engine (40_checksum.md R115 to R119). -/

namespace Sys2Proof.Machine

/-- `HASH <- h` and success with `RES <- h`. -/
def setHash (h : Word) (s : State) : State := succeed h false { s with hash := h }

/-- `FNV_INIT` (40_checksum.md R115). -/
def execFnvInit (s : State) : Host.Outcome State Fault Refusal := .next (setHash fnvOffset s)

/-- `FNV_UPDATE b` (40_checksum.md R116). -/
def execFnvUpdate (b : Byte) (s : State) : Host.Outcome State Fault Refusal :=
  .next (setHash (fnvUp b s.hash) s)

/-- `FNV_BLOCK` (40_checksum.md R117). -/
def execFnvBlock (s : State) : Host.Outcome State Fault Refusal :=
  .next (withInput s (raise .size false s) fun input => setHash (fnvBuf input s.hash) s)

/-- `CKS_COPY`: the input string and its tag; the fold starts at `FNV_OFFSET` in a temporary that is
not `HASH` (40_checksum.md R118). -/
def execCksCopy (s : State) : Host.Outcome State Fault Refusal :=
  .next (withInput s (raiseProducing .size s) fun input =>
    produceBounded (input ++ tag s.cfg.tagw (fnvBuf input fnvOffset)) (fnvBuf input fnvOffset) s)

/-- `CKS_VALIDATE`: a false verdict is a result, not a failure (40_checksum.md R119). -/
def execCksValidate (s : State) : Host.Outcome State Fault Refusal :=
  .next (withInput s (raise .size false s) fun input =>
    succeed (boolWord (validate s.cfg.tagw input)) false s)

end Sys2Proof.Machine
end

