-- ==== Sys2Proof/Machine/Base64.lean ====
section
/-! DEFINITION. The text codec functions: the sentinel detector, the base64 alphabet, encoder and
strict decoder (42_base64.md R140 to R146). -/

namespace Sys2Proof.Machine

/-- `IsBinary(s)`: some byte of `s` is a sentinel (42_base64.md R140). -/
def isBinary (c : CfgData) (s : List Byte) : Bool := s.any (fun b => c.sentinels.contains b)

/-- The padding symbol `=` (42_base64.md R142). -/
def padSym : Byte := 0x3D#8

/-- `Sym(v)` for `0 ≤ v ≤ 63` (42_base64.md R142). -/
def sym (v : BitVec 6) : Byte :=
  if v.toNat < 26 then BitVec.ofNat 8 (0x41 + v.toNat)
  else if v.toNat < 52 then BitVec.ofNat 8 (0x61 + (v.toNat - 26))
  else if v.toNat < 62 then BitVec.ofNat 8 (0x30 + (v.toNat - 52))
  else if v.toNat = 62 then 0x2B#8
  else 0x2F#8

/-- `Val(c)`, the inverse of `Sym`, defined for the 64 alphabet bytes only (42_base64.md R142). -/
def symVal (c : Byte) : Option (BitVec 6) :=
  let n := c.toNat
  if 0x41 ≤ n ∧ n ≤ 0x5A then some (BitVec.ofNat 6 (n - 0x41))
  else if 0x61 ≤ n ∧ n ≤ 0x7A then some (BitVec.ofNat 6 (26 + (n - 0x61)))
  else if 0x30 ≤ n ∧ n ≤ 0x39 then some (BitVec.ofNat 6 (52 + (n - 0x30)))
  else if n = 0x2B then some 62#6
  else if n = 0x2F then some 63#6
  else none

/-- The four symbols of a 24-bit group, most significant first (42_base64.md R143). -/
def groupSymbols (v : BitVec 24) : List Byte :=
  [sym (v.extractLsb' 18 6), sym (v.extractLsb' 12 6), sym (v.extractLsb' 6 6),
    sym (v.extractLsb' 0 6)]

/-- `B64Enc(s)`: groups of three bytes, first byte most significant; a final group of 2 bytes ends in
one `=`, of 1 byte in two (42_base64.md R143; 90_conflicts.md C1). -/
def base64Encode : List Byte → List Byte
  | [] => []
  | [x] => (groupSymbols (x ++ 0#8 ++ 0#8)).take 2 ++ [padSym, padSym]
  | [x, y] => (groupSymbols (x ++ y ++ 0#8)).take 3 ++ [padSym]
  | x :: y :: z :: rest => groupSymbols (x ++ y ++ z) ++ base64Encode rest

/-- One quartet decoded, `last` saying whether the input ends with it (42_base64.md R145, R146): `=`
stands only in the last quartet, only as `xx==` or `xxx=`, and the unused bits before it are
ignored. -/
def decodeQuartet (c0 c1 c2 c3 : Byte) (last : Bool) : Option (List Byte) :=
  match symVal c0, symVal c1 with
  | some v0, some v1 =>
    if c2 = padSym ∧ c3 = padSym then
      if last then
        let v : BitVec 24 := v0 ++ v1 ++ 0#6 ++ 0#6
        some [v.extractLsb' 16 8]
      else none
    else
      match symVal c2 with
      | none => none
      | some v2 =>
        if c3 = padSym then
          if last then
            let v : BitVec 24 := v0 ++ v1 ++ v2 ++ 0#6
            some [v.extractLsb' 16 8, v.extractLsb' 8 8]
          else none
        else
          match symVal c3 with
          | none => none
          | some v3 =>
            let v : BitVec 24 := v0 ++ v1 ++ v2 ++ v3
            some [v.extractLsb' 16 8, v.extractLsb' 8 8, v.extractLsb' 0 8]
  | _, _ => none

/-- `B64Dec(t)`: `none` is `fail` (42_base64.md R145). A length that is no multiple of 4 fails, so
does any bad quartet; the empty input decodes to the empty string. -/
def base64Decode : List Byte → Option (List Byte)
  | [] => some []
  | c0 :: c1 :: c2 :: c3 :: rest =>
    match decodeQuartet c0 c1 c2 c3 rest.isEmpty, base64Decode rest with
    | some bytes, some tail => some (bytes ++ tail)
    | _, _ => none
  | _ => none

end Sys2Proof.Machine
end

