-- ==== Sys2Proof/Machine/HeaderByte.lean ====
section
/-! DEFINITION. The chunk header byte: `Pack` and `Unpack` (30_encoding.md R90, 41_header.md R130,
R131). -/

namespace Sys2Proof.Machine

/-- The fields of a header byte (30_encoding.md R90). -/
structure Header where
  sn : BitVec 5
  binary : Bool
  first : Bool
  last : Bool
deriving DecidableEq, Repr

/-- A flag as the byte 0 or 1. -/
def flagByte (b : Bool) : Byte := if b then 1#8 else 0#8

/-- `Pack(sn, binary, first, last)` for an integer `sn ≥ 0` (41_header.md R130). -/
def pack (sn : Nat) (binary first last : Bool) : Byte :=
  BitVec.ofNat 8 (sn &&& 0x1F) ||| (flagByte binary <<< 5) ||| (flagByte first <<< 6) |||
    (flagByte last <<< 7)

/-- `Unpack(h)`, total on every byte (41_header.md R131). -/
def unpack (h : Byte) : Header where
  sn := h.extractLsb' 0 5
  binary := h.getLsbD 5
  first := h.getLsbD 6
  last := h.getLsbD 7

/-- The result layout of `HDR_UNPACK`: `sn | binary << 8 | first << 9 | last << 10`
(41_header.md R133). -/
def headerWord (h : Header) : Word :=
  0#21 ++ BitVec.ofBool h.last ++ BitVec.ofBool h.first ++ BitVec.ofBool h.binary ++ 0#3 ++ h.sn

end Sys2Proof.Machine
end

