-- ==== Sys2Proof/Machine/Chunk.lean ====
section
/-! DEFINITION. The wire chunk (30_encoding.md R92, R93) and its construction
(43_frame_tx.md R170). -/

namespace Sys2Proof.Machine

/-- The per-chunk binary decision: base64 is enabled and the payload holds a sentinel
(43_frame_tx.md R170, R172). -/
def chunkBinary (c : CfgData) (p : List Byte) : Bool := c.b64En && isBinary c p

/-- The header byte `BuildChunk` packs (43_frame_tx.md R170). -/
def chunkHeader (c : CfgData) (sn : Nat) (first last : Bool) (p : List Byte) : Byte :=
  pack sn (chunkBinary c p) first last

/-- A block `header ++ payload ++ tag`, the tag covering header and payload
(30_encoding.md R92). -/
def chunkBlock (w : TagWidth) (h : Byte) (p : List Byte) : List Byte :=
  h :: p ++ tag w (fnvBuf (h :: p) fnvOffset)

/-- `BuildChunk(sn, first, last, P)`: the block, or `SENT_ENC` and the base64 of the block
(43_frame_tx.md R170). -/
def buildChunk (c : CfgData) (sn : Nat) (first last : Bool) (p : List Byte) : List Byte :=
  let blk := chunkBlock c.tagw (chunkHeader c sn first last p) p
  if chunkBinary c p then c.sentEnc :: base64Encode blk else blk

end Sys2Proof.Machine
end

