-- ==== Sys2Proof/Machine/Flags.lean ====
section
/-! DEFINITION. The registers as the host sees them: indices, cause codes, and the words that pack
status and configuration (10_state.md R38 to R42, 60_exceptions.md R250). -/

namespace Sys2Proof.Machine

/-- The cause code (60_exceptions.md R250). -/
def causeCode : Cause → Byte
  | .none => 0#8
  | .decode => 1#8
  | .integrity => 2#8
  | .seqNoFrame => 3#8
  | .seqGap => 4#8
  | .seqFirst => 5#8
  | .overflow => 6#8
  | .size => 7#8
  | .illegal => 8#8

/-- The 17 registers (10_state.md R38). -/
inductive Csr where
  | cmd | status | res | hash | tag | ilen | olen | omax | rxlen | rxseq | msglen
  | cfg0 | cfg1 | cfg2 | cfg3 | cfg4 | cfg5
deriving DecidableEq, Repr

/-- The register at an index; "indices 17 and above are not defined" (10_state.md R38). -/
def csrOfIndex : Nat → Option Csr
  | 0 => some .cmd
  | 1 => some .status
  | 2 => some .res
  | 3 => some .hash
  | 4 => some .tag
  | 5 => some .ilen
  | 6 => some .olen
  | 7 => some .omax
  | 8 => some .rxlen
  | 9 => some .rxseq
  | 10 => some .msglen
  | 11 => some .cfg0
  | 12 => some .cfg1
  | 13 => some .cfg2
  | 14 => some .cfg3
  | 15 => some .cfg4
  | 16 => some .cfg5
  | _ => none

/-- `RSTATE = ACC` as a bit. -/
def accumulating (s : State) : Bool := s.rstate == .acc

/-- `STATUS` (10_state.md R39): `CAUSE` 7:0, `RXACC` 8, `MSGV` 9, `MSGB` 10, `DISC` 11, rest 0. -/
def statusWord (s : State) : Word :=
  0#20 ++ BitVec.ofBool s.disc ++ BitVec.ofBool s.msgBin ++ BitVec.ofBool s.msgValid ++
    BitVec.ofBool (accumulating s) ++ causeCode s.cause

/-- Bytes packed into a word, the first in bits 7:0. -/
def packLittleEndian : List Byte → Word
  | [] => 0#32
  | b :: bs => b.setWidth 32 ||| (packLittleEndian bs <<< 8)

/-- `TAG`: the tag of the current `HASH`, packed little-endian (10_state.md R40). -/
def tagWord (s : State) : Word := packLittleEndian (tag s.cfg.tagw s.hash)

/-- `RXSEQ`: `EXP_SN` in bits 4:0, `FRAME_BIN` in bit 5 (10_state.md R41). -/
def rxseqWord (s : State) : Word := 0#26 ++ BitVec.ofBool s.frameBin ++ s.expSn

/-- `CFG0`: `TAGW` 2:0, `B64_EN` 3, `SENT_BEGIN` present 4, `N` 13:8 (10_state.md R42). -/
def cfg0Word (c : CfgData) : Word :=
  0#18 ++ BitVec.ofNat 6 c.n ++ 0#3 ++ BitVec.ofBool c.sentBegin.isSome ++ BitVec.ofBool c.b64En ++
    BitVec.ofNat 3 c.tagw.bytes

/-- `CFG1`: `SENT_END` 7:0, `SENT_BEGIN` or 0 in 15:8, `SENT_ENC` 23:16 (10_state.md R42). -/
def cfg1Word (c : CfgData) : Word := 0#8 ++ c.sentEnc ++ c.sentBegin.getD 0#8 ++ c.sentEnd

/-- A length as a register reads it: the number where a word holds it, the free value elsewhere
(10_state.md R41; DESIGN CHOICE, log 26). -/
def lengthRegister (wide : Nat → Word) (n : Nat) : Word :=
  if n < 2 ^ 32 then BitVec.ofNat 32 n else wide n

/-- The value a host read of a register returns (10_state.md R38 to R42). -/
def csrValue (s : State) : Csr → Word
  | .cmd => 0#32
  | .status => statusWord s
  | .res => s.res
  | .hash => s.hash
  | .tag => tagWord s
  | .ilen => s.ilen
  | .olen => s.olen
  | .omax => s.omax
  | .rxlen => lengthRegister Config.wideRlen s.rlen
  | .rxseq => rxseqWord s
  | .msglen => lengthRegister Config.wideMsgLen s.msgLen
  | .cfg0 => cfg0Word s.cfg.toCfgData
  | .cfg1 => cfg1Word s.cfg.toCfgData
  | .cfg2 => BitVec.ofNat 32 s.cfg.m
  | .cfg3 => BitVec.ofNat 32 s.cfg.mtu
  | .cfg4 => BitVec.ofNat 32 s.cfg.ibufSize
  | .cfg5 => BitVec.ofNat 32 s.cfg.obufSize

end Sys2Proof.Machine
end

