-- ==== Sys2Proof/Machine/FrameRx.lean ====
section
/-! DEFINITION. The command of the receive path, `CHUNK_RX`, and the parts of its algorithm
(44_frame_rx.md R191 to R206). -/

namespace Sys2Proof.Machine

/-- Step 1, transcoding: with base64 enabled a chunk whose first byte is `SENT_ENC` is decoded, any
other chunk is its own block; `none` is a decode failure (44_frame_rx.md R192). -/
def rxBlock (c : CfgData) : List Byte → Option (List Byte)
  | [] => some []
  | b :: run => if c.b64En && b == c.sentEnc then base64Decode run else some (b :: run)

/-- Step 3: the payload of a validated block, between header and tag (44_frame_rx.md R194). -/
def blockPayload (w : TagWidth) (blk : List Byte) : List Byte :=
  (blk.drop 1).take (blk.length - 1 - w.bytes)

/-- Any earlier delivered message is gone (44_frame_rx.md R191, 10_state.md R33). -/
def rxClearMessage (s : State) : State :=
  { s with msgValid := false, msgLen := 0, msgBin := false }

/-- The open frame, if any, is discarded whole (44_frame_rx.md R201). -/
def rxDiscard (s : State) : State := { s with rstate := .idle, rlen := 0 }

/-- `RxFail(code)`: discard any open frame and say in `DISC` whether there was one
(44_frame_rx.md R201). -/
def rxFail (c : Cause) (s : State) : State := raise c (accumulating s) (rxDiscard s)

/-- A first chunk opens a frame with its payload (44_frame_rx.md R195). -/
def rxOpen (binary : Bool) (p : List Byte) (s : State) : State :=
  { s with
    rbuf := s.rbuf.writeBytes 0 p, rlen := p.length, expSn := 1#5, frameBin := binary
    rstate := .acc }

/-- A further chunk's payload is appended and the expected sequence number advances modulo 32
(44_frame_rx.md R200). -/
def rxAppend (binary : Bool) (p : List Byte) (s : State) : State :=
  { s with
    rbuf := s.rbuf.writeBytes s.rlen p, rlen := s.rlen + p.length, expSn := s.expSn + 1#5
    frameBin := s.frameBin || binary }

/-- The accumulated buffer becomes the delivered message and the frame is closed
(44_frame_rx.md R206). -/
def rxDeliver (s : State) : State :=
  { s with msgValid := true, msgLen := s.rlen, msgBin := s.frameBin, rlen := 0, rstate := .idle }

/-- Step 5, completeness: a last chunk delivers, `RES` 2; another leaves the frame open, `RES` 1
(44_frame_rx.md R191, R206). -/
def rxComplete (last d : Bool) (s : State) : State :=
  if last then succeed 2#32 d (rxDeliver s) else succeed 1#32 d s

/-- Step 4 for a valid first chunk: any open frame is discarded before the tests
(44_frame_rx.md R195, R196, R199). -/
def rxFirst (h : Header) (p : List Byte) (s : State) : State :=
  if h.sn ≠ 0#5 then raise .seqFirst (accumulating s) (rxDiscard s)
  else if s.cfg.maxf < p.length then raise .overflow (accumulating s) (rxDiscard s)
  else rxComplete h.last (accumulating s) (rxOpen h.binary p (rxDiscard s))

/-- Step 4 for a valid non-first chunk (44_frame_rx.md R197 to R200). -/
def rxNext (h : Header) (p : List Byte) (s : State) : State :=
  if s.rstate = .idle then raise .seqNoFrame false s
  else if h.sn ≠ s.expSn then rxFail .seqGap s
  else if s.cfg.maxf < s.rlen + p.length then rxFail .overflow s
  else rxComplete h.last false (rxAppend h.binary p s)

/-- Steps 3 and 4 for a block that passed the tag test. -/
def rxAccept (blk : List Byte) (s : State) : State :=
  let h := unpack (blk.headD 0#8)
  let p := blockPayload s.cfg.tagw blk
  if h.first then rxFirst h p s else rxNext h p s

/-- Steps 1 to 5 on the wire chunk `w`, past the size precondition (44_frame_rx.md R191). -/
def rxChunk (w : List Byte) (s : State) : State :=
  match rxBlock s.cfg.toCfgData w with
  | none => rxFail .decode (rxClearMessage s)
  | some blk =>
    if validate s.cfg.tagw blk then rxAccept blk (rxClearMessage s)
    else rxFail .integrity (rxClearMessage s)

/-- `CHUNK_RX`: the size precondition, a host error that changes nothing else, then the chunk
(44_frame_rx.md R191, R202). -/
def execChunkRx (s : State) : Host.Outcome State Fault Refusal :=
  .next (withInput s (raise .size false s) fun w =>
    if s.cfg.mtu < w.length then raise .size false s else rxChunk w s)

end Sys2Proof.Machine
end

