-- ==== Sys2Proof/Machine/FrameTx.lean ====
section
/-! DEFINITION. The command of the send path, `CHUNK_TX` (43_frame_tx.md R171). -/

namespace Sys2Proof.Machine

/-- `CHUNK_TX` past its input-size checks: the wire chunk goes to OBUF and its header byte to
`RES`. -/
def sendChunk (sn : Nat) (first last : Bool) (p : List Byte) (s : State) : State :=
  produceBounded (buildChunk s.cfg.toCfgData sn first last p)
    (zext (chunkHeader s.cfg.toCfgData sn first last p)) s

/-- `CHUNK_TX sn, first, last` (43_frame_tx.md R171). -/
def execChunkTx (sn : Nat) (first last : Bool) (s : State) :
    Host.Outcome State Fault Refusal :=
  .next (withInput s (raiseProducing .size s) fun p =>
    if s.cfg.m < p.length then raiseProducing .size s else sendChunk sn first last p s)

end Sys2Proof.Machine
end

