-- ==== Sys2Proof/Machine/Header.lean ====
section
/-! DEFINITION. The commands of the Chunk Header Codec (41_header.md R132, R133). -/

namespace Sys2Proof.Machine

/-- `HDR_PACK sn, bin, first, last` (41_header.md R132). -/
def execHdrPack (sn : Nat) (bin first last : Bool) (s : State) :
    Host.Outcome State Fault Refusal :=
  .next (succeed (zext (pack sn bin first last)) false s)

/-- `HDR_UNPACK h` (41_header.md R133). -/
def execHdrUnpack (h : Byte) (s : State) : Host.Outcome State Fault Refusal :=
  .next (succeed (headerWord (unpack h)) false s)

end Sys2Proof.Machine
end

