-- ==== Sys2Proof/Machine/System.lean ====
section
/-! DEFINITION. The system command `SRESET` (45_system.md R230). -/

namespace Sys2Proof.Machine

/-- The `SRESET` column of 10_state.md R47: every element but IBUF takes its reset value, and the
bytes of OBUF and RBUF become unspecified. The configuration and what the host still has to do
stay. -/
def softReset (s : State) : State :=
  { s with
    hash := 0x811C9DC5#32, res := 0#32, ilen := 0#32, olen := 0#32
    omax := BitVec.ofNat 32 s.cfg.obufSize
    obuf := [], rbuf := []
    rstate := .idle, rlen := 0, expSn := 0#5, frameBin := false
    msgValid := false, msgLen := 0, msgBin := false
    cause := .none, disc := false }

/-- `SRESET` (45_system.md R230). -/
def execSreset (s : State) : Host.Outcome State Fault Refusal := .next (softReset s)

end Sys2Proof.Machine
end

