-- ==== Sys2Proof/Machine/TextCodec.lean ====
section
/-! DEFINITION. The commands of the Binary-Safe Text Codec (42_base64.md R141, R147, R148). They work
whatever `B64_EN` is. -/

namespace Sys2Proof.Machine

/-- `BIN_DETECT` (42_base64.md R141). -/
def execBinDetect (s : State) : Host.Outcome State Fault Refusal :=
  .next (withInput s (raise .size false s) fun input =>
    succeed (boolWord (isBinary s.cfg.toCfgData input)) false s)

/-- `B64_ENC` (42_base64.md R147). -/
def execB64Enc (s : State) : Host.Outcome State Fault Refusal :=
  .next (withInput s (raiseProducing .size s) fun input =>
    produceBounded (base64Encode input) (lenWord (base64Encode input).length) s)

/-- `B64_DEC`: the decode test comes before the output bound (42_base64.md R148). -/
def execB64Dec (s : State) : Host.Outcome State Fault Refusal :=
  .next (withInput s (raiseProducing .size s) fun input =>
    match base64Decode input with
    | none => raiseProducing .decode s
    | some out => produceBounded out (lenWord out.length) s)

end Sys2Proof.Machine
end

