-- ==== Sys2Proof/Machine/Dispatch.lean ====
section
/-! DEFINITION. The meaning of every command, one arm each (30_encoding.md R85). -/

namespace Sys2Proof.Machine

-- The effect of a command (45_system.md R231, phases 2 to 4).
def exec (i : Instr) (s : State) : Host.Outcome State Fault Refusal :=
  match i with
  | .sreset => Sys2Proof.Machine.execSreset s
  | .fnvInit => Sys2Proof.Machine.execFnvInit s
  | .fnvUpdate b => Sys2Proof.Machine.execFnvUpdate b s
  | .fnvBlock => Sys2Proof.Machine.execFnvBlock s
  | .cksCopy => Sys2Proof.Machine.execCksCopy s
  | .cksValidate => Sys2Proof.Machine.execCksValidate s
  | .hdrPack sn bin first last => Sys2Proof.Machine.execHdrPack sn bin first last s
  | .hdrUnpack h => Sys2Proof.Machine.execHdrUnpack h s
  | .binDetect => Sys2Proof.Machine.execBinDetect s
  | .b64Enc => Sys2Proof.Machine.execB64Enc s
  | .b64Dec => Sys2Proof.Machine.execB64Dec s
  | .chunkTx sn first last => Sys2Proof.Machine.execChunkTx sn first last s
  | .chunkRx => Sys2Proof.Machine.execChunkRx s

end Sys2Proof.Machine
end

