-- ==== Sys2Proof/Machine/Transactions.lean ====
section
/-! DEFINITION. The host transactions (20_memory.md R61) and the issue of a command by a write of
`CMD` (45_system.md R231). -/

namespace Sys2Proof.Machine

/-- The next transaction is taken up: it leaves the host's list, nothing has been returned yet, and
one more transaction has been performed. -/
def acceptTxn (rest : List Txn) (s : State) : State :=
  { s with pending := rest, response := none, served := s.served + 1 }

/-- A read transaction ends: the value goes to the host and nothing else changes
(10_state.md R43, 20_memory.md R64). -/
def respond (r : Response) (s : State) : State := { s with response := some r }

/-- A write of `CMD`: decode, then the command or the illegal word's effect (45_system.md R231). -/
def issueCommand (w : Word) (s : State) : Host.Outcome State Fault Refusal :=
  match decodeWord w with
  | .ok i => exec i s
  | .error _ => .next (illegalCommand s)

/-- A host write of a register: `HASH`, `ILEN` and `OMAX` store the word, `CMD` issues a command, a
read-only register ignores the write (10_state.md R43). -/
def csrWriteEffect (r : Csr) (w : Word) (s : State) : Host.Outcome State Fault Refusal :=
  match r with
  | .cmd => issueCommand w s
  | .hash => .next { s with hash := w }
  | .ilen => .next { s with ilen := w }
  | .omax => .next { s with omax := w }
  | .status | .res | .tag | .olen | .rxlen | .rxseq | .msglen
  | .cfg0 | .cfg1 | .cfg2 | .cfg3 | .cfg4 | .cfg5 => .next s

/-- The byte a host read of `OBUF[i]` returns: the output byte, or any value where none is specified
(10_state.md R27; log 6). DESIGN CHOICE (log 24): a byte at or beyond both `OLEN` and the `OBOUND` of
the last producing command, which R27 calls unchanged and 93_implementation_defined.md U3 lets read
as any value, reads as the byte kept there. Unsafe. -/
def obufReadValue (s : State) (i : Nat) : Byte :=
  (s.obuf.readByte i).getD (Config.unspecifiedRead s.served)

/-- The byte a host read of `RBUF[i]` returns: the message byte when `MSG_VALID = 1` and
`i < MSG_LEN`, any value otherwise (10_state.md R28; log 6). -/
def rbufReadValue (s : State) (i : Nat) : Byte :=
  if s.msgValid ∧ i < s.msgLen then (s.rbuf.readByte i).getD (Config.unspecifiedRead s.served)
  else Config.unspecifiedRead s.served

/-- A transaction on a byte buffer of `size` bytes; an index outside it is not defined
(20_memory.md R61, 93_implementation_defined.md U4). -/
def inBuffer (sp : Space) (size i : Nat) (s : State) : Host.Outcome State Fault Refusal :=
  if i < size then .next s else .fault (.noSuchIndex sp i)

/-- One host transaction (20_memory.md R61). -/
def performTxn (t : Txn) (s : State) : Host.Outcome State Fault Refusal :=
  match t with
  | .csrRead i =>
    match csrOfIndex i with
    | some r => .next (respond (.word (csrValue s r)) s)
    | none => .fault (.noSuchIndex .csr i)
  | .csrWrite i w =>
    match csrOfIndex i with
    | some r => csrWriteEffect r w s
    | none => .fault (.noSuchIndex .csr i)
  | .ibufWrite i b => inBuffer .ibuf s.cfg.ibufSize i { s with ibuf := s.ibuf.writeByte i b }
  | .ibufRead i => inBuffer .ibuf s.cfg.ibufSize i (respond (.byte (inputByte s i)) s)
  | .obufRead i => inBuffer .obuf s.cfg.obufSize i (respond (.byte (obufReadValue s i)) s)
  | .obufWrite i _ => inBuffer .obuf s.cfg.obufSize i s
  | .rbufRead i => inBuffer .rbuf s.cfg.maxf i (respond (.byte (rbufReadValue s i)) s)

end Sys2Proof.Machine
end

