-- ==== Sys2Proof/Machine/Step.lean ====
section
/-! DEFINITION. One step of the block: the host's next transaction, performed whole
(00_scope.md R9, R10; 20_memory.md R67). -/

namespace Sys2Proof.Machine

/-- One step. The engine "has no step of its own" (00_scope.md R10), so with no transaction before it
nothing changes (log 4). -/
def step (s : State) : Host.Outcome State Fault Refusal :=
  match s.pending with
  | [] => .next s
  | t :: rest => performTxn t (acceptTxn rest s)

/-- The host's next transaction is the write of `CMD` with the word whose low `nbits` bits are those
of `w` and whose other bits are 0. -/
def State.withFetchWord (s : State) (nbits w : Nat) : State :=
  { s with pending := .csrWrite 0 (BitVec.ofNat 32 (w % 2 ^ nbits)) :: s.pending }

end Sys2Proof.Machine
end

