-- ==== Sys2Proof/Machine/Script.lean ====
section
/-! DEFINITION. Host scripts: the pseudo-instructions of 30_encoding.md R88 and R89, the send loop
and its chunks (43_frame_tx.md R173 to R175), and the run of a list of transactions. A script whose
transactions are fixed is a list; one that depends on what the host reads is a run. No command
performs these: they are host software (00_scope.md R4 e). -/

namespace Sys2Proof.Machine

/-- A list of transactions performed one after another, each before any the host already has. -/
def serve : List Txn → State → Host.Outcome State Fault Refusal
  | [], s => .next s
  | t :: ts, s =>
    match step { s with pending := t :: s.pending } with
    | .next s' => serve ts s'
    | .fault r => .fault r
    | .refused r => .refused r

/-- A command as the write of `CMD` with its word (30_encoding.md R88). -/
def commandTxn (i : Instr) : Txn := .csrWrite 0 (encode i)

/-- The bytes written into IBUF from an index on. -/
def ibufWrites : Nat → List Byte → List Txn
  | _, [] => []
  | i, b :: bs => .ibufWrite i b :: ibufWrites (i + 1) bs

/-- `ibuf <bytes>`: `IbufWrite(i, b_i)` in index order, then `csrw ILEN, len` (30_encoding.md R88). -/
def ibufScript (bs : List Byte) : List Txn := ibufWrites 0 bs ++ [.csrWrite 5 (lenWord bs.length)]

/-- One thing after another, the second given what the first gave; a stop ends both. -/
def andThen {α β : Type} (o : Host.Outcome α Fault Refusal)
    (k : α → Host.Outcome β Fault Refusal) : Host.Outcome β Fault Refusal :=
  match o with
  | .next a => k a
  | .fault r => .fault r
  | .refused r => .refused r

/-- The word a register read has just returned (`csrr`, 30_encoding.md R88). -/
def returnedWord (s : State) : Word :=
  match s.response with
  | some (.word w) => w
  | some (.byte b) => zext b
  | none => 0#32

/-- The byte a buffer read has just returned. -/
def returnedByte (s : State) : Byte :=
  match s.response with
  | some (.byte b) => b
  | some (.word w) => w.setWidth 8
  | none => 0#8

/-- Buffer reads performed one after another, and the bytes they return, in order. -/
def readBytes : List Txn → State → Host.Outcome (State × List Byte) Fault Refusal
  | [], s => .next (s, [])
  | x :: xs, s =>
    andThen (serve [x] s) fun t =>
      andThen (readBytes xs t) fun (u, bs) => .next (u, returnedByte t :: bs)

/-- `obuf`: read `OLEN`, then `OBUF[0..OLEN)` for the `OLEN` just read (30_encoding.md R88). -/
def readOutput (s : State) : Host.Outcome (State × List Byte) Fault Refusal :=
  andThen (serve [.csrRead 6] s) fun t =>
    readBytes ((List.range (returnedWord t).toNat).map .obufRead) t

/-- `rbuf`: check `STATUS.MSGV = 1`, then read `MSGLEN` and `RBUF[0..MSGLEN)` for the `MSGLEN` just
read (30_encoding.md R88). DESIGN CHOICE (log 25): where the check fails nothing more is read. -/
def readMessage (s : State) : Host.Outcome (State × Option (List Byte)) Fault Refusal :=
  andThen (serve [.csrRead 1] s) fun t =>
    if (returnedWord t).getLsbD 9 then
      andThen (serve [.csrRead 10] t) fun u =>
        andThen (readBytes ((List.range (returnedWord u).toNat).map .rbufRead) u) fun (v, bs) =>
          .next (v, some bs)
    else .next (t, none)

/-- `HASH_OF bytes, init`, or from the offset basis (30_encoding.md R89). -/
def hashOfScript (init : Option Word) (bs : List Byte) : List Txn :=
  match init with
  | some h => .csrWrite 3 h :: (ibufScript bs ++ [commandTxn .fnvBlock, .csrRead 2])
  | none => commandTxn .fnvInit :: (ibufScript bs ++ [commandTxn .fnvBlock, .csrRead 2])

/-- `TAG_OF` (30_encoding.md R89). -/
def tagOfScript : List Txn := [.csrRead 4]

/-- `VALIDATE bytes` (30_encoding.md R89). -/
def validateScript (bs : List Byte) : List Txn :=
  ibufScript bs ++ [commandTxn .cksValidate, .csrRead 2]

/-- The part of `RECV_CHUNK bytes` that gives the block one wire chunk (30_encoding.md R89). -/
def feedChunk (w : List Byte) : List Txn := ibufScript w ++ [commandTxn .chunkRx]

/-- `RECV_CHUNK bytes`: give the block the chunk and read `STATUS`; if `MSGV`, `csrr MSGLEN` and
`rbuf` (30_encoding.md R89). -/
def receiveChunk (w : List Byte) (s : State) :
    Host.Outcome (State × Option (List Byte)) Fault Refusal :=
  andThen (serve (feedChunk w ++ [.csrRead 1]) s) fun t =>
    if (returnedWord t).getLsbD 9 then andThen (serve [.csrRead 10] t) readMessage
    else .next (t, none)

/-- One turn of the receiving host: transactions before the chunk, the chunk, and transactions
between filling IBUF and `CHUNK_RX` (44_frame_rx.md R216). -/
structure Round where
  before : List Txn
  chunk : List Byte
  between : List Txn
deriving DecidableEq, Repr

/-- The transactions of a turn, in order. -/
def Round.txns (r : Round) : List Txn :=
  r.before ++ (ibufScript r.chunk ++ (r.between ++ [commandTxn .chunkRx]))

/-- The states after each turn of the receiving host, in order. -/
def receiveRounds : List Round → State → Option (List State)
  | [], _ => some []
  | r :: rs, s =>
    match serve r.txns s with
    | .next t => (receiveRounds rs t).map (t :: ·)
    | .fault _ => none
    | .refused _ => none

/-- The states after each of a list of wire chunks is given to the block, in order. -/
def receiveAll : List (List Byte) → State → Option (List State)
  | [], _ => some []
  | w :: ws, s =>
    match serve (feedChunk w) s with
    | .next t => (receiveAll ws t).map (t :: ·)
    | .fault _ => none
    | .refused _ => none

/-- `K = max(1, ceil(L / M))` (43_frame_tx.md R173, R175). -/
def chunkCount (c : CfgData) (len : Nat) : Nat := max 1 ((len + (c.m - 1)) / c.m)

/-- `P_i = msg[i × M .. min((i+1) × M, L))` (43_frame_tx.md R173). -/
def chunkPayload (c : CfgData) (msg : List Byte) (i : Nat) : List Byte :=
  (msg.drop (i * c.m)).take c.m

/-- Wire chunk `i` of a message (43_frame_tx.md R173). -/
def messageChunk (c : CfgData) (msg : List Byte) (i : Nat) : List Byte :=
  buildChunk c i (i == 0) (i + 1 == chunkCount c msg.length) (chunkPayload c msg i)

/-- `Disassemble(msg)`: its wire chunks in order; an oversized message is rejected, producing none
(43_frame_tx.md R173, R174). -/
def disassemble (c : CfgData) (msg : List Byte) : Option (List (List Byte)) :=
  if c.maxf < msg.length then none
  else some ((List.range (chunkCount c msg.length)).map (messageChunk c msg))

/-- The transactions that make wire chunk `i` of a message (43_frame_tx.md R173). -/
def sendChunkScript (c : CfgData) (msg : List Byte) (i : Nat) : List Txn :=
  ibufScript (chunkPayload c msg i) ++
    [commandTxn (.chunkTx i (i == 0) (i + 1 == chunkCount c msg.length))]

/-- One turn of the send loop: make wire chunk `i`, then "read OLEN and OBUF[0..OLEN): this is wire
chunk i" (43_frame_tx.md R173). -/
def sendTurn (c : CfgData) (msg : List Byte) (i : Nat) (s : State) :
    Host.Outcome (State × List Byte) Fault Refusal :=
  andThen (serve (sendChunkScript c msg i) s) readOutput

/-- The turns of the send loop for a list of chunk indices, and what they hand to the transport.
DESIGN CHOICE (log 25): where a `CHUNK_TX` fails, because the host lowered `OMAX`, 43_frame_tx.md
R173 does not say whether the host stops; this one goes on with the next index. -/
def sendTurns (c : CfgData) (msg : List Byte) :
    List Nat → State → Host.Outcome (State × List (List Byte)) Fault Refusal
  | [], s => .next (s, [])
  | i :: is, s =>
    andThen (sendTurn c msg i s) fun (t, w) =>
      andThen (sendTurns c msg is t) fun (u, ws) => .next (u, w :: ws)

/-- `SEND_FRAME msg`: an oversized message is rejected before any transaction; else one turn for each
chunk in order (43_frame_tx.md R173, R174). -/
def sendFrame (c : CfgData) (msg : List Byte) (s : State) :
    Host.Outcome (State × Option (List (List Byte))) Fault Refusal :=
  if c.maxf < msg.length then .next (s, none)
  else
    andThen (sendTurns c msg (List.range (chunkCount c msg.length)) s) fun (t, ws) =>
      .next (t, some ws)

end Sys2Proof.Machine
end

