-- ==== Sys2Proof/Safety.lean ====
section
/-! DEFINITION. What statements about the block speak of: the invariant of its states
(10_state.md R48), what a command keeps, and when a wire chunk is valid. -/

namespace Sys2Proof.Machine

/-- The invariant: the buffers keep their canonical form and their sizes (20_memory.md R60), the
clauses (a) to (e) and (g) of 10_state.md R48 ((f) holds by the type of `EXP_SN`), and every byte
that stands in a valid output, an open frame or a delivered message is a specified one. -/
structure State.Inv (s : State) : Prop where
  ibufWf : s.ibuf.wf
  obufWf : s.obuf.wf
  rbufWf : s.rbuf.wf
  ibufBound : ∀ c ∈ s.ibuf, c.1 < s.cfg.ibufSize
  obufBound : ∀ c ∈ s.obuf, c.1 < s.cfg.obufSize
  rbufBound : ∀ c ∈ s.rbuf, c.1 < s.cfg.maxf
  idleEmpty : s.rstate = .idle → s.rlen = 0
  rlenBound : s.rlen ≤ s.cfg.maxf
  noMessage : s.msgValid = false → s.msgLen = 0 ∧ s.msgBin = false
  msgLenBound : s.msgLen ≤ s.cfg.maxf
  messageIdle : s.msgValid = true → s.rstate = .idle
  olenBound : s.olen.toNat ≤ s.cfg.obufSize
  outputSpecified : ∀ i < s.olen.toNat, (s.obuf.readByte i).isSome = true
  frameSpecified : s.rstate = .acc → ∀ i < s.rlen, (s.rbuf.readByte i).isSome = true
  messageSpecified : s.msgValid = true → ∀ i < s.msgLen, (s.rbuf.readByte i).isSome = true

/-- The producing commands (10_state.md R24). -/
def isProducing : Instr → Bool
  | .cksCopy | .b64Enc | .b64Dec | .chunkTx _ _ _ => true
  | .sreset | .fnvInit | .fnvUpdate _ | .fnvBlock | .cksValidate | .hdrPack _ _ _ _
  | .hdrUnpack _ | .binDetect | .chunkRx => false

/-- The commands whose operand is the input string (20_memory.md R60). -/
def takesInput : Instr → Bool
  | .fnvBlock | .cksCopy | .cksValidate | .binDetect | .b64Enc | .b64Dec | .chunkTx _ _ _
  | .chunkRx => true
  | .sreset | .fnvInit | .fnvUpdate _ | .hdrPack _ _ _ _ | .hdrUnpack _ => false

/-- Register `r` stands at index `i` and is read-only: a host read returns its value and changes
nothing, a host write is ignored (10_state.md R38, R43). -/
def readOnlyRegister (s : State) (i : Nat) (r : Csr) : Prop :=
  serve [.csrRead i] s =
      .next { s with response := some (.word (csrValue s r)), served := s.served + 1 } ∧
    ∀ w, serve [.csrWrite i w] s = .next { s with response := none, served := s.served + 1 }

/-- Every field but `RES`, `CAUSE` and `DISC` is the same in both states. -/
def keepsAllButStatus (s t : State) : Prop :=
  { t with res := s.res, cause := s.cause, disc := s.disc } = s

/-- Every field but OBUF, `OLEN`, `RES`, `CAUSE` and `DISC` is the same in both states. -/
def keepsAllButOutput (s t : State) : Prop :=
  { t with obuf := s.obuf, olen := s.olen, res := s.res, cause := s.cause, disc := s.disc } = s

/-- Every field but RBUF, the reassembler's, the delivered message's, `RES`, `CAUSE` and `DISC` is
the same in both states. -/
def keepsAllButReception (s t : State) : Prop :=
  { t with
    rbuf := s.rbuf, rstate := s.rstate, rlen := s.rlen, expSn := s.expSn, frameBin := s.frameBin
    msgValid := s.msgValid, msgLen := s.msgLen, msgBin := s.msgBin
    res := s.res, cause := s.cause, disc := s.disc } = s

/-- What a failed command that is neither producing nor `CHUNK_RX` leaves (45_system.md R233). -/
def failedPlain (c : Cause) (s t : State) : Prop :=
  t.cause = c ∧ t.res = 0#32 ∧ t.disc = false ∧ keepsAllButStatus s t

/-- What a failed producing command leaves: `OLEN = 0`, no specified byte below `OBOUND`, every byte
from `OBOUND` on as before (45_system.md R233). -/
def failedProducing (c : Cause) (s t : State) : Prop :=
  t.cause = c ∧ t.res = 0#32 ∧ t.disc = false ∧ t.olen = 0#32 ∧
    (∀ i < obound s, t.obuf.readByte i = none) ∧
    (∀ i, obound s ≤ i → t.obuf.readByte i = s.obuf.readByte i) ∧ keepsAllButOutput s t

/-- What a command that succeeds with result `r` and no output leaves (45_system.md R234). -/
def succeededPlain (r : Word) (s t : State) : Prop :=
  t.cause = .none ∧ t.res = r ∧ t.disc = false ∧ keepsAllButStatus s t

/-- What a producing command that succeeds leaves: the output from index 0, its length in `OLEN`, no
specified byte from there to `OBOUND`, every byte from `OBOUND` on as before (10_state.md R27). -/
def producedOutput (out : List Byte) (r : Word) (s t : State) : Prop :=
  t.cause = .none ∧ t.res = r ∧ t.disc = false ∧ t.olen.toNat = out.length ∧
    (∀ i < out.length, t.obuf.readByte i = out[i]?) ∧
    (∀ i, out.length ≤ i → i < obound s → t.obuf.readByte i = none) ∧
    (∀ i, obound s ≤ i → t.obuf.readByte i = s.obuf.readByte i) ∧ keepsAllButOutput s t

/-- RBUF after a payload is written at an index: those bytes are the payload's, every other byte is
as before. -/
def payloadWritten (s t : State) (start : Nat) (p : List Byte) : Prop :=
  ∀ i, t.rbuf.readByte i =
    if start ≤ i ∧ i < start + p.length then p[i - start]? else s.rbuf.readByte i

/-- The wire chunk `w` is valid, with header `h` and payload `p`: it fits the transport, transcoding
succeeds and the tag is right (44_frame_rx.md R192 to R194, R203). -/
def ValidChunk (c : CfgData) (w : List Byte) (h : Header) (p : List Byte) : Prop :=
  w.length ≤ c.mtu ∧ ∃ blk, rxBlock c w = some blk ∧ validate c.tagw blk = true ∧
    unpack (blk.headD 0#8) = h ∧ blockPayload c.tagw blk = p

/-- A wire chunk as the host received it, with what it carries. -/
structure Received where
  wire : List Byte
  header : Header
  payload : List Byte
deriving DecidableEq, Repr

/-- The chunks of one whole frame, valid and in order, whose payloads fit the reassembly buffer: the
sequence numbers count from 0 modulo 32, the first alone has `first = 1`, the last alone `last = 1`
(30_encoding.md R95, 44_frame_rx.md R211). -/
def WholeFrame (c : CfgData) (bs : List Received) : Prop :=
  bs ≠ [] ∧ (bs.flatMap Received.payload).length ≤ c.maxf ∧
    ∀ (i : Nat) (b : Received), bs[i]? = some b → ValidChunk c b.wire b.header b.payload ∧
      b.header.sn = BitVec.ofNat 5 i ∧ b.header.first = (i == 0) ∧
      b.header.last = (i + 1 == bs.length)

/-- What the states after each chunk of a frame show when it is received whole: success throughout,
`RES` 1 but for the last, `DISC` on the first alone and as `d` says, and after the last the delivered
message `msg` with the binary flag `bin` (44_frame_rx.md R215, R216). -/
def frameReceived (d bin : Bool) (msg : List Byte) (ts : List State) : Prop :=
  (∀ t ∈ ts, t.cause = .none) ∧ (∀ t ∈ ts.dropLast, t.res = 1#32) ∧
    (∀ t, ts.head? = some t → t.disc = d) ∧ (∀ t ∈ ts.tail, t.disc = false) ∧
    ∃ last, ts.getLast? = some last ∧ last.res = 2#32 ∧ last.rstate = .idle ∧
      last.msgValid = true ∧ last.msgLen = msg.length ∧ last.msgBin = bin ∧
      ∀ i < msg.length, last.rbuf.readByte i = msg[i]?

/-- A transaction the host may make between the chunks of a frame: its index is within its space and
it is neither a `CHUNK_RX` nor a reset (44_frame_rx.md R216). -/
def isBystander (c : CfgData) : Txn → Bool
  | .csrRead i => decide (i < 17)
  | .csrWrite i w =>
    decide (i < 17) &&
      !(i == 0 && [some Instr.chunkRx, some .sreset].contains (decodeWord w).toOption)
  | .ibufWrite i _ => decide (i < c.ibufSize)
  | .ibufRead i => decide (i < c.ibufSize)
  | .obufRead i => decide (i < c.obufSize)
  | .obufWrite i _ => decide (i < c.obufSize)
  | .rbufRead i => decide (i < c.maxf)

/-- A transaction that writes neither IBUF nor `ILEN`, but for a reset. -/
def keepsInput : Txn → Bool
  | .csrWrite i _ => i != 5
  | .ibufWrite _ _ => false
  | .csrRead _ | .ibufRead _ | .obufRead _ | .obufWrite _ _ | .rbufRead _ => true

/-- The interleaving 44_frame_rx.md R216 allows in one turn: any bystanders before the chunk, and
after it stands in IBUF any that leave it there. -/
def Round.allowed (c : CfgData) (r : Round) : Prop :=
  (∀ x ∈ r.before, isBystander c x = true) ∧
    ∀ x ∈ r.between, isBystander c x = true ∧ keepsInput x = true

/-- What a `CHUNK_RX` that fails past its size check leaves: an open frame is discarded, `DISC` says
whether there was one, `RLEN` is `len`, the delivered message is gone and RBUF is not written
(44_frame_rx.md R191, R201). -/
def receptionFailed (c : Cause) (len : Nat) (s t : State) : Prop :=
  t.cause = c ∧ t.res = 0#32 ∧ t.disc = (s.rstate == .acc) ∧ t.rstate = .idle ∧
    t.rlen = len ∧ t.msgValid = false ∧ t.msgLen = 0 ∧ t.msgBin = false ∧
    (∀ i, t.rbuf.readByte i = s.rbuf.readByte i) ∧ t.expSn = s.expSn ∧ t.frameBin = s.frameBin ∧
    keepsAllButReception s t

/-- What a `CHUNK_RX` that accepts a chunk without completing the frame leaves. -/
def frameOpen (len : Nat) (sn : BitVec 5) (bin d : Bool) (s t : State) : Prop :=
  t.cause = .none ∧ t.res = 1#32 ∧ t.disc = d ∧ t.rstate = .acc ∧ t.rlen = len ∧ t.expSn = sn ∧
    t.frameBin = bin ∧ t.msgValid = false ∧ t.msgLen = 0 ∧ t.msgBin = false ∧
    keepsAllButReception s t

/-- What a `CHUNK_RX` that completes a message leaves (44_frame_rx.md R206). -/
def messageDelivered (len : Nat) (sn : BitVec 5) (bin d : Bool) (s t : State) : Prop :=
  t.cause = .none ∧ t.res = 2#32 ∧ t.disc = d ∧ t.rstate = .idle ∧ t.rlen = 0 ∧ t.expSn = sn ∧
    t.frameBin = bin ∧ t.msgValid = true ∧ t.msgLen = len ∧ t.msgBin = bin ∧
    keepsAllButReception s t

end Sys2Proof.Machine
end

