-- ==== Sys2Proof/Certificates/Slice0/Obligations.lean ====
section
/-! DEFINITION. The statements for the provers. Each docstring names the rule of spec/ it states. -/

open Sys2Proof Sys2Proof.Machine

/-! ## Command words -/

/-- 30_encoding.md R80 to R85: no field of a command word is dropped by decoding. -/
def Obligations.DecodeOfEncodedCommand : Prop :=
  ∀ i : Instr, i.wf = true → decodeWord (encode i) = .ok i

/-- 30_encoding.md R80, R85: a legal word is the one encoding of the well-formed command it decodes
to, so the decoder "has no aliases". -/
def Obligations.EncodeOfDecodedWord : Prop :=
  ∀ (w : Word) (i : Instr), decodeWord w = .ok i → i.wf = true ∧ encode i = w

/-- 30_encoding.md R85: the words that decode are exactly those that match one of the thirteen
match/mask pairs as the spec writes them, the command is the row's, and "the rows are disjoint". -/
def Obligations.LegalWordsMatchTheOpcodeMap : Prop :=
  (∀ w : Word,
    (decodeWord w = .ok .sreset ↔ w = 0x01#32) ∧ (decodeWord w = .ok .fnvInit ↔ w = 0x10#32) ∧
    ((∃ b, decodeWord w = .ok (.fnvUpdate b)) ↔ w &&& 0xFFFF00FF#32 = 0x11#32) ∧
    (decodeWord w = .ok .fnvBlock ↔ w = 0x12#32) ∧ (decodeWord w = .ok .cksCopy ↔ w = 0x13#32) ∧
    (decodeWord w = .ok .cksValidate ↔ w = 0x14#32) ∧
    ((∃ sn b f l, decodeWord w = .ok (.hdrPack sn b f l)) ↔ w &&& 0xFFF800FF#32 = 0x20#32) ∧
    ((∃ h, decodeWord w = .ok (.hdrUnpack h)) ↔ w &&& 0xFFFF00FF#32 = 0x21#32) ∧
    (decodeWord w = .ok .binDetect ↔ w = 0x30#32) ∧ (decodeWord w = .ok .b64Enc ↔ w = 0x31#32) ∧
    (decodeWord w = .ok .b64Dec ↔ w = 0x32#32) ∧
    ((∃ sn f l, decodeWord w = .ok (.chunkTx sn f l)) ↔ w &&& 0xFFF900FF#32 = 0x40#32) ∧
    (decodeWord w = .ok .chunkRx ↔ w = 0x41#32)) ∧
  opcodeTable.Pairwise fun r q => ∀ w : Word, ¬(r.selects w = true ∧ q.selects w = true)

/-- Words the spec writes out (41_header.md R132, R133; 40_checksum.md R116; 43_frame_tx.md R171;
45_system.md R230) decode to the commands they stand for. -/
def Obligations.WrittenOutWordsDecode : Prop :=
  decodeWord 0x00000001#32 = .ok .sreset ∧
    decodeWord 0x00006111#32 = .ok (.fnvUpdate 0x61#8) ∧
    decodeWord 0x00040220#32 = .ok (.hdrPack 2 false false true) ∧
    decodeWord 0x0000C021#32 = .ok (.hdrUnpack 0xC0#8) ∧
    decodeWord 0x00000031#32 = .ok .b64Enc ∧
    decodeWord 0x00020040#32 = .ok (.chunkTx 0 true false) ∧
    decodeWord 0x00000041#32 = .ok .chunkRx

/-! ## Steps and host transactions -/

/-- 45_system.md R231: a write of `CMD` runs the command the word decodes to, as one step; the step
adds only what every transaction does (it leaves the host's list, returns nothing and is counted). -/
def Obligations.StepRunsTheDecodedCommand : Prop :=
  ∀ (s : State) (w : Word) (rest : List Txn) (i : Instr),
    s.pending = .csrWrite 0 w :: rest → decodeWord w = .ok i →
      i.wf = true ∧
        step s = exec i { s with pending := rest, response := none, served := s.served + 1 }

/-- 45_system.md R232: a word that matches no row records `E_ILLEGAL`, `RES = 0`, `DISC = 0` and
changes nothing else. -/
def Obligations.IllegalWordOnlyRecordsItsCause : Prop :=
  ∀ (s : State) (w : Word) (rest : List Txn), s.pending = .csrWrite 0 w :: rest →
    (∀ r ∈ opcodeTable, r.selects w = false) →
      step s = .next { s with
        cause := .illegal, res := 0#32, disc := false
        pending := rest, response := none, served := s.served + 1 }

/-- 00_scope.md R10: the engine "has no step of its own". The MODEL's choice (log 4): a step with no
transaction before it answers the same state. -/
def Obligations.StepWithoutTransactionChangesNothing : Prop :=
  ∀ s : State, s.pending = [] → step s = .next s

/-- 10_state.md R38, R43: the 17 registers by index, what each reads, its value after reset, and its
access: a host read has no side effect; a write to a read-only register is ignored; a write to
`HASH`, `ILEN` or `OMAX` stores the word and changes nothing else; `CMD` reads 0 and the word written
there is not stored but issues a command. A length that no word holds is left open (log 26). -/
def Obligations.RegisterAccess : Prop :=
  (List.range 17).map csrOfIndex =
      [Csr.cmd, .status, .res, .hash, .tag, .ilen, .olen, .omax, .rxlen, .rxseq, .msglen, .cfg0, .cfg1,
        .cfg2, .cfg3, .cfg4, .cfg5].map some ∧
  (∀ i, 17 ≤ i → csrOfIndex i = none) ∧
  (∀ (s : State) (i : Nat) (w : Word) (r : Csr) (rest : List Txn), csrOfIndex i = some r →
    let s' := { s with pending := rest, response := none, served := s.served + 1 }
    step { s with pending := .csrRead i :: rest } =
        .next { s' with response := some (.word (csrValue s r)) } ∧
      (r = .cmd → step { s with pending := .csrWrite i w :: rest } = issueCommand w s') ∧
      (r = .hash → step { s with pending := .csrWrite i w :: rest } = .next { s' with hash := w }) ∧
      (r = .ilen → step { s with pending := .csrWrite i w :: rest } = .next { s' with ilen := w }) ∧
      (r = .omax → step { s with pending := .csrWrite i w :: rest } = .next { s' with omax := w }) ∧
      (r ≠ .cmd → r ≠ .hash → r ≠ .ilen → r ≠ .omax →
        step { s with pending := .csrWrite i w :: rest } = .next s')) ∧
  (∀ s : State,
    csrValue s .cmd = 0#32 ∧ csrValue s .res = s.res ∧ csrValue s .hash = s.hash ∧
    csrValue s .ilen = s.ilen ∧ csrValue s .olen = s.olen ∧ csrValue s .omax = s.omax ∧
    (s.rlen < 2 ^ 32 → (csrValue s .rxlen).toNat = s.rlen) ∧
    (s.msgLen < 2 ^ 32 → (csrValue s .msglen).toNat = s.msgLen) ∧
    (csrValue s .cfg2).toNat = s.cfg.m ∧ (csrValue s .cfg3).toNat = s.cfg.mtu ∧
    (csrValue s .cfg4).toNat = s.cfg.ibufSize ∧ (csrValue s .cfg5).toNat = s.cfg.obufSize) ∧
  ∀ c : Cfg, let s := State.resetOf c
    csrValue s .status = 0#32 ∧ csrValue s .res = 0#32 ∧ csrValue s .hash = 0x811C9DC5#32 ∧
    csrValue s .tag = (match c.tagw with | .three => 0x009D9DC5#32 | .four => 0x811C9DC5#32) ∧
    csrValue s .ilen = 0#32 ∧ csrValue s .olen = 0#32 ∧ (csrValue s .omax).toNat = c.obufSize ∧
    csrValue s .rxlen = 0#32 ∧ csrValue s .rxseq = 0#32 ∧ csrValue s .msglen = 0#32

/-- 10_state.md R39: `STATUS` is read-only, its fields, and its value after reset; the cause codes
are those of 60_exceptions.md R250. -/
def Obligations.StatusRegisterFields : Prop :=
  ∀ s : State, readOnlyRegister s 1 .status ∧
    (csrValue s .status).extractLsb' 0 8 = causeCode s.cause ∧
    causeCode .none = 0#8 ∧ causeCode .decode = 1#8 ∧ causeCode .integrity = 2#8 ∧
    causeCode .seqNoFrame = 3#8 ∧ causeCode .seqGap = 4#8 ∧ causeCode .seqFirst = 5#8 ∧
    causeCode .overflow = 6#8 ∧ causeCode .size = 7#8 ∧ causeCode .illegal = 8#8 ∧
    ((csrValue s .status).getLsbD 8 = true ↔ s.rstate = .acc) ∧
    (csrValue s .status).getLsbD 9 = s.msgValid ∧
    (csrValue s .status).getLsbD 10 = s.msgBin ∧
    (csrValue s .status).getLsbD 11 = s.disc ∧
    (csrValue s .status).extractLsb' 12 20 = 0#20 ∧
    ∀ c : Cfg, csrValue (State.resetOf c) .status = 0#32

/-- 10_state.md R40: `TAG` is read-only and packs the tag of the current `HASH` little-endian; with
four bytes it equals `HASH`, with three its top byte reads 0. -/
def Obligations.TagRegisterPacksTheTag : Prop :=
  ∀ s : State, readOnlyRegister s 4 .tag ∧
    (s.cfg.tagw = .four → csrValue s .tag = s.hash) ∧
    (∀ i < s.cfg.tagw.bytes,
      (tag s.cfg.tagw s.hash)[i]? = some ((csrValue s .tag).extractLsb' (8 * i) 8)) ∧
    (s.cfg.tagw = .three → (csrValue s .tag).extractLsb' 24 8 = 0#8)

/-- 10_state.md R41: the read-only registers `RXLEN`, `RXSEQ` and `MSGLEN`. What the first and the
last read for a length that no word holds is left open (log 26). -/
def Obligations.ReassemblerRegisters : Prop :=
  ∀ s : State,
    readOnlyRegister s 8 .rxlen ∧ (s.rlen < 2 ^ 32 → (csrValue s .rxlen).toNat = s.rlen) ∧
    readOnlyRegister s 9 .rxseq ∧ (csrValue s .rxseq).extractLsb' 0 5 = s.expSn ∧
    (csrValue s .rxseq).getLsbD 5 = s.frameBin ∧ (csrValue s .rxseq).extractLsb' 6 26 = 0#26 ∧
    readOnlyRegister s 10 .msglen ∧
    (s.msgLen < 2 ^ 32 → (csrValue s .msglen).toNat = s.msgLen)

/-- 10_state.md R42: the configuration registers are read-only and report `Cfg`. -/
def Obligations.ConfigurationRegisters : Prop :=
  ∀ s : State,
    readOnlyRegister s 11 .cfg0 ∧ readOnlyRegister s 12 .cfg1 ∧ readOnlyRegister s 13 .cfg2 ∧
    readOnlyRegister s 14 .cfg3 ∧ readOnlyRegister s 15 .cfg4 ∧ readOnlyRegister s 16 .cfg5 ∧
    ((csrValue s .cfg0).extractLsb' 0 3).toNat = s.cfg.tagw.bytes ∧
    (csrValue s .cfg0).getLsbD 3 = s.cfg.b64En ∧
    (csrValue s .cfg0).getLsbD 4 = s.cfg.sentBegin.isSome ∧
    (csrValue s .cfg0).extractLsb' 5 3 = 0#3 ∧
    ((csrValue s .cfg0).extractLsb' 8 6).toNat = s.cfg.n ∧
    (csrValue s .cfg0).extractLsb' 14 18 = 0#18 ∧
    (csrValue s .cfg1).extractLsb' 0 8 = s.cfg.sentEnd ∧
    (csrValue s .cfg1).extractLsb' 8 8 = s.cfg.sentBegin.getD 0#8 ∧
    (csrValue s .cfg1).extractLsb' 16 8 = s.cfg.sentEnc ∧
    (csrValue s .cfg1).extractLsb' 24 8 = 0#8 ∧
    (csrValue s .cfg2).toNat = s.cfg.m ∧ (csrValue s .cfg3).toNat = s.cfg.mtu ∧
    (csrValue s .cfg4).toNat = s.cfg.ibufSize ∧ (csrValue s .cfg5).toNat = s.cfg.obufSize

/-- 10_state.md R26, 20_memory.md R64: a host read of `IBUF[i]` returns the byte that commands read
there and changes nothing else; a host write stores the byte there, changes no other byte and nothing
else, and a read after it returns it. That a byte never written since hardware reset reads as the same
free value to every read and every command is the MODEL's choice (log 7): the spec leaves it any
value. -/
def Obligations.InputBufferReadsBackWhatTheHostWrote : Prop :=
  ∀ (s : State) (i : Nat) (b : Byte), i < s.cfg.ibufSize →
    serve [.ibufRead i] s =
        .next { s with response := some (.byte (inputByte s i)), served := s.served + 1 } ∧
    ∃ t u, serve [.ibufWrite i b] s = .next t ∧ serve [.ibufWrite i b, .ibufRead i] s = .next u ∧
      u = { t with response := some (.byte b), served := t.served + 1 } ∧ inputByte t i = b ∧
      (∀ j, j ≠ i → t.ibuf.readByte j = s.ibuf.readByte j) ∧
      { t with ibuf := s.ibuf, response := s.response, served := s.served } = s

/-- 10_state.md R27, 20_memory.md R64: a host read of OBUF changes nothing else and returns the byte
that stands there, where one is specified; a host write is ignored, whatever stands there. That a
byte past the output (at or beyond `OLEN`) reads as the one kept is the MODEL's choice (log 24). -/
def Obligations.OutputBufferIsReadOnlyToTheHost : Prop :=
  ∀ (s : State) (i : Nat) (c : Byte), i < s.cfg.obufSize →
    (∃ b, serve [.obufRead i] s =
        .next { s with response := some (.byte b), served := s.served + 1 } ∧
      ∀ b', s.obuf.readByte i = some b' → b = b') ∧
    serve [.obufWrite i c] s = .next { s with response := none, served := s.served + 1 }

/-- 10_state.md R28: a host read of `RBUF[i]` returns the message byte when `MSG_VALID = 1` and
`i < MSG_LEN`; outside that window the contents of RBUF do not reach the host (two blocks that differ
in RBUF alone answer the same byte, which is the MODEL's choice for an unspecified read: log 6);
neither read changes anything else. -/
def Obligations.OnlyTheDeliveredMessageIsReadable : Prop :=
  ∀ (s : State) (i : Nat),
    (s.Inv → s.msgValid = true → i < s.msgLen → ∃ b, s.rbuf.readByte i = some b ∧
      serve [.rbufRead i] s =
        .next { s with response := some (.byte b), served := s.served + 1 }) ∧
    (¬(s.msgValid = true ∧ i < s.msgLen) → i < s.cfg.maxf → ∃ b, ∀ m : Memory,
      serve [.rbufRead i] { s with rbuf := m } =
        .next { s with rbuf := m, response := some (.byte b), served := s.served + 1 })

/-- 20_memory.md R61, 93_implementation_defined.md U4: a transaction with an index outside its space
is not defined; the MODEL stops by name (log 9). -/
def Obligations.IndexOutsideItsSpaceStops : Prop :=
  ∀ (s : State) (i : Nat) (w : Word) (b : Byte) (rest : List Txn),
    (17 ≤ i → step { s with pending := .csrRead i :: rest } = .fault (.noSuchIndex .csr i) ∧
      step { s with pending := .csrWrite i w :: rest } = .fault (.noSuchIndex .csr i)) ∧
    (s.cfg.ibufSize ≤ i →
      step { s with pending := .ibufWrite i b :: rest } = .fault (.noSuchIndex .ibuf i) ∧
      step { s with pending := .ibufRead i :: rest } = .fault (.noSuchIndex .ibuf i)) ∧
    (s.cfg.obufSize ≤ i →
      step { s with pending := .obufRead i :: rest } = .fault (.noSuchIndex .obuf i) ∧
      step { s with pending := .obufWrite i b :: rest } = .fault (.noSuchIndex .obuf i)) ∧
    (s.cfg.maxf ≤ i →
      step { s with pending := .rbufRead i :: rest } = .fault (.noSuchIndex .rbuf i))

/-! ## Checksum engine -/

/-- 40_checksum.md R113: the bytes of the tag in integer arithmetic. -/
def Obligations.TagBytes : Prop :=
  ∀ h : Word,
    (tag .four h).map BitVec.toNat =
        [h.toNat % 256, h.toNat / 2 ^ 8 % 256, h.toNat / 2 ^ 16 % 256, h.toNat / 2 ^ 24] ∧
      (tag .three h).map BitVec.toNat =
        [h.toNat % 256, h.toNat / 2 ^ 8 % 256, (h.toNat / 2 ^ 16 % 256) ^^^ (h.toNat / 2 ^ 24)]

/-- 40_checksum.md R115: `FNV_INIT`. -/
def Obligations.FnvInitSetsTheOffsetBasis : Prop :=
  decodeWord 0x00000010#32 = .ok .fnvInit ∧
    ∀ s : State, exec .fnvInit s = .next { s with
      hash := 0x811C9DC5#32, res := 0x811C9DC5#32, cause := .none, disc := false }

/-- 40_checksum.md R116, R111: `FNV_UPDATE`, the byte step in integer arithmetic modulo 2³². -/
def Obligations.FnvUpdateFoldsOneByte : Prop :=
  ∀ b : Byte, decodeWord (0x00000011#32 ||| (b.setWidth 32 <<< 8)) = .ok (.fnvUpdate b) ∧
    ∀ s : State, exec (.fnvUpdate b) s = .next { s with
      hash := BitVec.ofNat 32 ((s.hash.toNat ^^^ b.toNat) * 16777619)
      res := BitVec.ofNat 32 ((s.hash.toNat ^^^ b.toNat) * 16777619)
      cause := .none, disc := false }

/-- 40_checksum.md R117: `FNV_BLOCK`; past the input bound it fails with `HASH` unchanged. -/
def Obligations.FnvBlockFoldsTheInput : Prop :=
  decodeWord 0x00000012#32 = .ok .fnvBlock ∧
    ∀ s : State, exec .fnvBlock s =
      if s.ilen.toNat ≤ s.cfg.ibufSize then
        .next { s with
          hash := fnvBuf (inputString s) s.hash, res := fnvBuf (inputString s) s.hash
          cause := .none, disc := false }
      else .next { s with cause := .size, res := 0#32, disc := false }

/-- 40_checksum.md R118: `CKS_COPY` outputs the input and its tag, folded from the offset basis, or
fails with `E_SIZE`; nothing else changes, `HASH` among it. The output satisfies `Validate` for every
`ILEN ≥ 1`, and the bare tag does not. -/
def Obligations.CksCopyAppendsTheTag : Prop :=
  decodeWord 0x00000013#32 = .ok .cksCopy ∧
    ∀ s : State, ∃ t, exec .cksCopy s = .next t ∧
      if s.ilen.toNat ≤ s.cfg.ibufSize ∧ s.ilen.toNat + s.cfg.tagw.bytes ≤ obound s then
        producedOutput
          (inputString s ++ tag s.cfg.tagw (fnvBuf (inputString s) 0x811C9DC5#32))
          (fnvBuf (inputString s) 0x811C9DC5#32) s t ∧
        t.olen.toNat = s.ilen.toNat + s.cfg.tagw.bytes ∧
        (validate s.cfg.tagw
          (inputString s ++ tag s.cfg.tagw (fnvBuf (inputString s) 0x811C9DC5#32)) = true ↔
            1 ≤ s.ilen.toNat)
      else failedProducing .size s t

/-- 40_checksum.md R119, R114: `CKS_VALIDATE` gives the verdict; a false one is no failure. -/
def Obligations.CksValidateGivesTheVerdict : Prop :=
  decodeWord 0x00000014#32 = .ok .cksValidate ∧
    ∀ s : State, ∃ t, exec .cksValidate s = .next t ∧
      if s.ilen.toNat ≤ s.cfg.ibufSize then
        succeededPlain (if validate s.cfg.tagw (inputString s) then 1#32 else 0#32) s t
      else failedPlain .size s t

/-- 40_checksum.md R114: what `Validate` says of a string: false up to `TAGW` bytes, else that the
trailing bytes are the tag of those before them. -/
def Obligations.ValidateComparesTheTrailingTag : Prop :=
  ∀ (w : TagWidth) (s : List Byte), (validate w s = true ↔
    ∃ d, d ≠ [] ∧ s = d ++ tag w (fnvBuf d 0x811C9DC5#32))

/-- 40_checksum.md R121: the fold composes, and a fold made by `FNV_INIT` and one `FNV_UPDATE` for
each byte, or one `FNV_BLOCK` for each of any pieces, ends with the same `HASH`. -/
def Obligations.FoldsCompose : Prop :=
  (∀ (a b : List Byte) (h : Word), fnvBuf (a ++ b) h = fnvBuf b (fnvBuf a h)) ∧
    (∀ (s : State) (bs : List Byte),
      ∃ t, serve (commandTxn .fnvInit :: bs.map fun b => commandTxn (.fnvUpdate b)) s = .next t ∧
        t.hash = fnvBuf bs 0x811C9DC5#32 ∧ t.res = t.hash ∧ t.cause = .none) ∧
    (∀ (s : State) (pieces : List (List Byte)), (∀ p ∈ pieces, p.length ≤ s.cfg.ibufSize) →
      ∃ t, serve (commandTxn .fnvInit ::
          pieces.flatMap fun p => ibufScript p ++ [commandTxn .fnvBlock]) s = .next t ∧
        t.hash = fnvBuf pieces.flatten 0x811C9DC5#32 ∧ t.res = t.hash ∧ t.cause = .none)

/-- 40_checksum.md R122, 70_reset_and_hazards.md R303: corruption of one byte of a valid string, in
the data or in the tag, is always detected, with both tag widths. -/
def Obligations.OneByteCorruptionIsDetected : Prop :=
  ∀ (w : TagWidth) (s : List Byte) (i : Nat) (b : Byte), validate w s = true → i < s.length →
    s[i]? ≠ some b → validate w (s.set i b) = false

/-! ## Header codec -/

/-- 41_header.md R132, R130: `HDR_PACK`, the packing in integer arithmetic, for every value of the
field `A`. -/
def Obligations.HdrPackResult : Prop :=
  ∀ (sn : Nat) (bin first last : Bool), sn < 256 →
    decodeWord (0x00000020#32 ||| (BitVec.ofNat 32 sn <<< 8) ||| (BitVec.ofBool bin).setWidth 32 <<< 16
        ||| (BitVec.ofBool first).setWidth 32 <<< 17 ||| (BitVec.ofBool last).setWidth 32 <<< 18) =
      .ok (.hdrPack sn bin first last) ∧
    ∀ s : State, exec (.hdrPack sn bin first last) s = .next { s with
      res := BitVec.ofNat 32 (sn % 32 + (if bin then 32 else 0) + (if first then 64 else 0) +
        (if last then 128 else 0))
      cause := .none, disc := false }

/-- 41_header.md R133, R131: `HDR_UNPACK`, the unpacking in integer arithmetic. -/
def Obligations.HdrUnpackResult : Prop :=
  ∀ h : Byte, decodeWord (0x00000021#32 ||| (h.setWidth 32 <<< 8)) = .ok (.hdrUnpack h) ∧
    ∀ s : State, exec (.hdrUnpack h) s = .next { s with
      res := BitVec.ofNat 32 (h.toNat % 32 + 256 * (h.toNat / 32 % 2) + 512 * (h.toNat / 64 % 2) +
        1024 * (h.toNat / 128))
      cause := .none, disc := false }

/-- 41_header.md R134: packing and unpacking are inverse, and only `sn mod 32` is packed. -/
def Obligations.PackAndUnpackAreInverse : Prop :=
  (∀ (sn : Nat) (binary first last : Bool),
    unpack (pack sn binary first last) = ⟨BitVec.ofNat 5 sn, binary, first, last⟩ ∧
      pack sn binary first last = pack (sn % 32) binary first last) ∧
    ∀ h : Byte, pack (unpack h).sn.toNat (unpack h).binary (unpack h).first (unpack h).last = h

/-! ## Text codec -/

/-- 42_base64.md R141, R140: `BIN_DETECT` answers whether some byte of the input is a sentinel. -/
def Obligations.BinDetectFindsSentinels : Prop :=
  decodeWord 0x00000030#32 = .ok .binDetect ∧
    ∀ s : State, ∃ t, exec .binDetect s = .next t ∧
      (s.cfg.ibufSize < s.ilen.toNat → failedPlain .size s t) ∧
      (s.ilen.toNat ≤ s.cfg.ibufSize → ∃ r, succeededPlain r s t ∧ (r = 0#32 ∨ r = 1#32) ∧
        (r = 1#32 ↔ ∃ b ∈ inputString s,
          b = s.cfg.sentEnd ∨ b = s.cfg.sentEnc ∨ s.cfg.sentBegin = some b))

/-- 42_base64.md R142: the alphabet's values are inverse to its symbols, in the order the spec lists
them, and `=` is no symbol of a value. -/
def Obligations.AlphabetIsABijection : Prop :=
  (∀ v : BitVec 6, symVal (sym v) = some v) ∧ (∀ (c : Byte) (v : BitVec 6), symVal c = some v → sym v = c) ∧
    symVal padSym = none ∧
    (∀ v : BitVec 6, (sym v).toNat =
      if v.toNat ≤ 25 then 0x41 + v.toNat else if v.toNat ≤ 51 then 0x61 + (v.toNat - 26)
      else if v.toNat ≤ 61 then 0x30 + (v.toNat - 52) else if v.toNat = 62 then 0x2B else 0x2F)

/-- 42_base64.md R143: the groups of the encoder in integer arithmetic, the first byte most
significant, and the padding of a final group of one or two bytes. -/
def Obligations.EncoderGroups : Prop :=
  let at6 (v k : Nat) : Byte := sym (BitVec.ofNat 6 (v / 2 ^ k))
  base64Encode [] = [] ∧
  (∀ x : Byte, base64Encode [x] =
    [at6 (x.toNat * 2 ^ 16) 18, at6 (x.toNat * 2 ^ 16) 12, 0x3D#8, 0x3D#8]) ∧
  (∀ x y : Byte, base64Encode [x, y] =
    [at6 (x.toNat * 2 ^ 16 + y.toNat * 2 ^ 8) 18, at6 (x.toNat * 2 ^ 16 + y.toNat * 2 ^ 8) 12,
      at6 (x.toNat * 2 ^ 16 + y.toNat * 2 ^ 8) 6, 0x3D#8]) ∧
  (∀ (x y z : Byte) (rest : List Byte), base64Encode (x :: y :: z :: rest) =
    at6 (x.toNat * 2 ^ 16 + y.toNat * 2 ^ 8 + z.toNat) 18 ::
      at6 (x.toNat * 2 ^ 16 + y.toNat * 2 ^ 8 + z.toNat) 12 ::
      at6 (x.toNat * 2 ^ 16 + y.toNat * 2 ^ 8 + z.toNat) 6 ::
      at6 (x.toNat * 2 ^ 16 + y.toNat * 2 ^ 8 + z.toNat) 0 :: base64Encode rest)

/-- 42_base64.md R144: the length of the encoding, and padding only in the last quartet and only when
the input's length is no multiple of 3. -/
def Obligations.EncodedLengthAndPadding : Prop :=
  ∀ s : List Byte, (base64Encode s).length = 4 * ((s.length + 2) / 3) ∧
    ∀ i, (base64Encode s)[i]? = some padSym →
      s.length % 3 ≠ 0 ∧ (base64Encode s).length < i + 4

/-- 42_base64.md R147: `B64_ENC`. -/
def Obligations.B64EncProducesTheEncoding : Prop :=
  decodeWord 0x00000031#32 = .ok .b64Enc ∧
    ∀ s : State, ∃ t, exec .b64Enc s = .next t ∧
      if s.ilen.toNat ≤ s.cfg.ibufSize ∧ b64Len s.ilen.toNat ≤ obound s then
        producedOutput (base64Encode (inputString s)) t.olen s t ∧
          t.olen.toNat = b64Len s.ilen.toNat
      else failedProducing .size s t

/-- 42_base64.md R148: `B64_DEC`; the decode test comes before the output bound. -/
def Obligations.B64DecProducesTheDecoding : Prop :=
  decodeWord 0x00000032#32 = .ok .b64Dec ∧
    ∀ s : State, ∃ t, exec .b64Dec s = .next t ∧
      (s.cfg.ibufSize < s.ilen.toNat → failedProducing .size s t) ∧
      (s.ilen.toNat ≤ s.cfg.ibufSize → base64Decode (inputString s) = none →
        failedProducing .decode s t) ∧
      (∀ r, s.ilen.toNat ≤ s.cfg.ibufSize → base64Decode (inputString s) = some r →
        if r.length ≤ obound s then producedOutput r t.olen s t ∧ r.length ≤ 3 * s.ilen.toNat / 4
        else failedProducing .size s t)

/-- 42_base64.md R149: decoding an encoding gives the bytes back, never `fail`. -/
def Obligations.DecodeOfEncodedBytes : Prop :=
  ∀ s : List Byte, base64Decode (base64Encode s) = some s

/-- 42_base64.md R150 (and R145, R146 a): the decoder fails exactly on a length that is no multiple
of 4, a symbol outside the alphabet and `=`, more than two `=` in a quartet, `=` before a non-`=`
within a quartet, or a padded quartet that is not the last. -/
def Obligations.DecoderIsStrict : Prop :=
  ∀ t : List Byte, (base64Decode t = none ↔
    t.length % 4 ≠ 0 ∨ (∃ b ∈ t, symVal b = none ∧ b ≠ padSym) ∨
      (∃ k, 2 < ((t.drop (4 * k)).take 4).count padSym) ∨
      (∃ k i j, i < j ∧ j < 4 ∧ t[4 * k + i]? = some padSym ∧ 4 * k + j < t.length ∧
        t[4 * k + j]? ≠ some padSym) ∨
      (∃ i, t[i]? = some padSym ∧ 4 * (i / 4 + 1) < t.length))

/-- 42_base64.md R145 (and R146 b): every input of the decoder by its first quartet, in integer
arithmetic. A quartet yields 3, 2 or 1 bytes for 0, 1 or 2 padding symbols, whatever the unused bits
before the padding are, and padding ends the input; any other quartet fails, and so does a length
that is no multiple of 4. -/
def Obligations.DecoderGroups : Prop :=
  let group (a b c d : Nat) : Nat := a * 2 ^ 18 + b * 2 ^ 12 + c * 2 ^ 6 + d
  let at8 (v k : Nat) : Byte := BitVec.ofNat 8 (v / 2 ^ k)
  base64Decode [] = some [] ∧ (∀ t : List Byte, t.length % 4 ≠ 0 → base64Decode t = none) ∧
  (∀ (a b c d : Byte) (va vb vc vd : BitVec 6) (rest : List Byte), symVal a = some va →
    symVal b = some vb → symVal c = some vc → symVal d = some vd →
    let v := group va.toNat vb.toNat vc.toNat vd.toNat
    base64Decode (a :: b :: c :: d :: rest) =
      (base64Decode rest).map ([at8 v 16, at8 v 8, at8 v 0] ++ ·)) ∧
  (∀ (a b c : Byte) (va vb vc : BitVec 6), symVal a = some va → symVal b = some vb →
    symVal c = some vc →
    let v := group va.toNat vb.toNat vc.toNat 0
    base64Decode [a, b, c, 0x3D#8] = some [at8 v 16, at8 v 8]) ∧
  (∀ (a b : Byte) (va vb : BitVec 6), symVal a = some va → symVal b = some vb →
    base64Decode [a, b, 0x3D#8, 0x3D#8] =
      some [at8 (group va.toNat vb.toNat 0 0) 16]) ∧
  ∀ (a b c d : Byte) (rest : List Byte),
    symVal a = none ∨ symVal b = none ∨ (symVal c = none ∧ c ≠ 0x3D#8) ∨
      (symVal d = none ∧ d ≠ 0x3D#8) ∨ (c = 0x3D#8 ∧ d ≠ 0x3D#8) ∨
      ((c = 0x3D#8 ∨ d = 0x3D#8) ∧ rest ≠ []) →
    base64Decode (a :: b :: c :: d :: rest) = none

/-! ## Send path -/

/-- 43_frame_tx.md R171, R170: `CHUNK_TX` puts the wire chunk in OBUF and its header byte in `RES`,
or fails with `E_SIZE`. -/
def Obligations.ChunkTxProducesTheWireChunk : Prop :=
  ∀ (sn : Nat) (first last : Bool),
    (sn < 256 → decodeWord (0x00000040#32 ||| (BitVec.ofNat 32 sn <<< 8) |||
        (BitVec.ofBool first).setWidth 32 <<< 17 ||| (BitVec.ofBool last).setWidth 32 <<< 18) =
      .ok (.chunkTx sn first last)) ∧
    ∀ s : State, ∃ t, exec (.chunkTx sn first last) s = .next t ∧
      let p := inputString s
      let binary := s.cfg.b64En && isBinary s.cfg.toCfgData p
      let h := pack sn binary first last
      let blk := h :: p ++ tag s.cfg.tagw (fnvBuf (h :: p) 0x811C9DC5#32)
      let wire := if binary then s.cfg.sentEnc :: base64Encode blk else blk
      if s.ilen.toNat ≤ s.cfg.ibufSize ∧ s.ilen.toNat ≤ s.cfg.m ∧ wire.length ≤ obound s then
        producedOutput wire (h.setWidth 32) s t
      else failedProducing .size s t

/-- 43_frame_tx.md R177: a built chunk fits the transport and the output buffer, and carries its
header and its payload back through transcoding and validation. -/
def Obligations.BuiltChunksFitAndVerify : Prop :=
  ∀ (c : Cfg) (sn : Nat) (first last : Bool) (p : List Byte), p.length ≤ c.m →
    let wire := buildChunk c.toCfgData sn first last p
    let binary := c.b64En && isBinary c.toCfgData p
    wire.length ≤ c.wireMax ∧ c.wireMax ≤ c.mtu ∧ c.mtu ≤ c.obufSize ∧
    (p = [] → binary = false) ∧
    (binary = false → wire.length = c.plainLen p.length ∧ validate c.tagw wire = true ∧
      unpack (wire.headD 0#8) = ⟨BitVec.ofNat 5 sn, false, first, last⟩) ∧
    (binary = true → wire.length = c.encLen p.length ∧ wire.head? = some c.sentEnc ∧
      ∃ blk, base64Decode wire.tail = some blk ∧ validate c.tagw blk = true ∧
        unpack (blk.headD 0#8) = ⟨BitVec.ofNat 5 sn, true, first, last⟩ ∧
        blockPayload c.tagw blk = p)

/-- 43_frame_tx.md R173 to R175: `SEND_FRAME`. An oversized message is rejected and nothing is done. A
message that fits has between 1 and `N` chunks whose payloads make it up, and each turn of the loop
hands over the `OLEN` bytes of OBUF: wire chunk `i`, or no byte after a `CHUNK_TX` that a lowered
`OMAX` made fail. With the output bound of reset no turn fails, and the loop hands over the message's
wire chunks in order. -/
def Obligations.SendLoopMakesTheMessageChunks : Prop :=
  ∀ (s : State) (msg : List Byte), let c := s.cfg.toCfgData
    (c.maxf < msg.length → sendFrame c msg s = .next (s, none) ∧ disassemble c msg = none) ∧
    (msg.length ≤ c.maxf →
      1 ≤ chunkCount c msg.length ∧ chunkCount c msg.length ≤ c.n ∧
      (List.range (chunkCount c msg.length)).flatMap (chunkPayload c msg) = msg ∧
      (∀ i < chunkCount c msg.length, ∃ t u w,
        serve (sendChunkScript c msg i) s = .next t ∧ sendTurn c msg i s = .next (u, w) ∧
        { u with response := t.response, served := t.served } = t ∧
        (s.cfg.obufSize ≤ s.omax.toNat → (messageChunk c msg i).length ≤ obound s) ∧
        if (messageChunk c msg i).length ≤ obound s then
          t.cause = .none ∧ t.olen.toNat = (messageChunk c msg i).length ∧
          (∀ j < t.olen.toNat, t.obuf.readByte j = (messageChunk c msg i)[j]?) ∧
          w = messageChunk c msg i
        else t.cause = .size ∧ t.olen = 0#32 ∧ w = []) ∧
      (s.cfg.obufSize ≤ s.omax.toNat → ∃ u chunks, disassemble c msg = some chunks ∧
        sendFrame c msg s = .next (u, some chunks)))

/-! ## Receive path -/

/-- 44_frame_rx.md R202: a chunk longer than `MTU` or than IBUF is refused with `E_SIZE` and nothing
else changes. -/
def Obligations.ChunkRxSizeRefusal : Prop :=
  decodeWord 0x00000041#32 = .ok .chunkRx ∧
    ∀ s : State, s.cfg.ibufSize < s.ilen.toNat ∨ s.cfg.mtu < s.ilen.toNat →
      exec .chunkRx s = .next { s with cause := .size, res := 0#32, disc := false }

/-- 44_frame_rx.md R192, 60_exceptions.md R251: a chunk taken as encoded whose symbols do not decode
is dropped with `E_DECODE`, and an open frame is discarded. -/
def Obligations.ChunkRxDecodeFailure : Prop :=
  ∀ (s : State) (run : List Byte), s.ilen.toNat ≤ s.cfg.mtu → s.cfg.b64En = true →
    inputString s = s.cfg.sentEnc :: run → base64Decode run = none →
      ∃ t, exec .chunkRx s = .next t ∧ receptionFailed .decode 0 s t

/-- 44_frame_rx.md R193, 60_exceptions.md R252: a block whose tag is wrong, or of `TAGW` bytes or
fewer, is dropped with `E_INTEGRITY`, and an open frame is discarded. -/
def Obligations.ChunkRxIntegrityFailure : Prop :=
  ∀ (s : State) (blk : List Byte), s.ilen.toNat ≤ s.cfg.mtu →
    rxBlock s.cfg.toCfgData (inputString s) = some blk → validate s.cfg.tagw blk = false →
      ∃ t, exec .chunkRx s = .next t ∧ receptionFailed .integrity 0 s t

/-- 44_frame_rx.md R196, 60_exceptions.md R255: a valid first chunk with `sn ≠ 0` opens no frame and
discards an open one. -/
def Obligations.FirstChunkMustHaveSequenceZero : Prop :=
  ∀ (s : State) (h : Header) (p : List Byte), ValidChunk s.cfg.toCfgData (inputString s) h p →
    h.first = true → h.sn ≠ 0#5 →
      ∃ t, exec .chunkRx s = .next t ∧ receptionFailed .seqFirst 0 s t

/-- 44_frame_rx.md R197, 60_exceptions.md R253: a valid non-first chunk while `IDLE` is dropped. -/
def Obligations.NonFirstChunkWithoutFrameIsDropped : Prop :=
  ∀ (s : State) (h : Header) (p : List Byte), ValidChunk s.cfg.toCfgData (inputString s) h p →
    h.first = false → s.rstate = .idle →
      ∃ t, exec .chunkRx s = .next t ∧ receptionFailed .seqNoFrame s.rlen s t ∧ t.disc = false

/-- 44_frame_rx.md R198, 60_exceptions.md R254: while `ACC`, any sequence number but the expected one
discards the frame. -/
def Obligations.WrongSequenceNumberDiscardsTheFrame : Prop :=
  ∀ (s : State) (h : Header) (p : List Byte), ValidChunk s.cfg.toCfgData (inputString s) h p →
    h.first = false → s.rstate = .acc → h.sn ≠ s.expSn →
      ∃ t, exec .chunkRx s = .next t ∧ receptionFailed .seqGap 0 s t ∧ t.disc = true

/-- 44_frame_rx.md R199, 60_exceptions.md R256: a payload that would make the frame longer than
`MAXF` discards the frame and none of its bytes is stored. -/
def Obligations.OverflowDiscardsTheFrame : Prop :=
  ∀ (s : State) (h : Header) (p : List Byte), ValidChunk s.cfg.toCfgData (inputString s) h p →
    (h.first = true ∧ h.sn = 0#5 ∧ s.cfg.maxf < p.length) ∨
      (h.first = false ∧ s.rstate = .acc ∧ h.sn = s.expSn ∧ s.cfg.maxf < s.rlen + p.length) →
      ∃ t, exec .chunkRx s = .next t ∧ receptionFailed .overflow 0 s t

/-- 44_frame_rx.md R195: a valid first chunk opens a new frame whatever the state, `DISC` telling of
an open one, and its payload stands at the start of RBUF; when it is also the last, its payload is
the delivered message (R206). -/
def Obligations.FirstChunkOpensAFrame : Prop :=
  ∀ (s : State) (h : Header) (p : List Byte), ValidChunk s.cfg.toCfgData (inputString s) h p →
    h.first = true → h.sn = 0#5 → p.length ≤ s.cfg.maxf →
      ∃ t, exec .chunkRx s = .next t ∧ payloadWritten s t 0 p ∧
        if h.last then messageDelivered p.length 1#5 h.binary (s.rstate == .acc) s t
        else frameOpen p.length 1#5 h.binary (s.rstate == .acc) s t

/-- 44_frame_rx.md R200, R211: the expected chunk's payload is appended at `RLEN`, the expected
number advances modulo 32 and the binary flags are OR-ed; when it is the last, the whole frame is
the delivered message (R206). -/
def Obligations.ExpectedChunkIsAppended : Prop :=
  ∀ (s : State) (h : Header) (p : List Byte), ValidChunk s.cfg.toCfgData (inputString s) h p →
    h.first = false → s.rstate = .acc → h.sn = s.expSn → s.rlen + p.length ≤ s.cfg.maxf →
      ∃ t, exec .chunkRx s = .next t ∧ payloadWritten s t s.rlen p ∧
        let sn := BitVec.ofNat 5 ((s.expSn.toNat + 1) % 32)
        if h.last then messageDelivered (s.rlen + p.length) sn (s.frameBin || h.binary) false s t
        else frameOpen (s.rlen + p.length) sn (s.frameBin || h.binary) false s t

/-- 44_frame_rx.md R214: from `IDLE`, valid chunks numbered 0, 1 and 3 deliver nothing, discard the
frame and return to `IDLE`, and any further non-first chunk finds no frame. -/
def Obligations.GapLosesTheFrame : Prop :=
  ∀ (s : State) (w0 w1 w3 w4 : List Byte) (h0 h1 h3 h4 : Header) (p0 p1 p3 p4 : List Byte),
    s.rstate = .idle →
    ValidChunk s.cfg.toCfgData w0 h0 p0 → ValidChunk s.cfg.toCfgData w1 h1 p1 →
    ValidChunk s.cfg.toCfgData w3 h3 p3 → ValidChunk s.cfg.toCfgData w4 h4 p4 →
    h0.first = true → h0.last = false → h0.sn = 0#5 →
    h1.first = false → h1.last = false → h1.sn = 1#5 →
    h3.first = false → h3.sn = 3#5 → h4.first = false →
    p0.length + p1.length ≤ s.cfg.maxf →
      ∃ t0 t1 t3 t4, receiveAll [w0, w1, w3, w4] s = some [t0, t1, t3, t4] ∧
        t0.res = 1#32 ∧ t0.rstate = .acc ∧ t1.res = 1#32 ∧ t1.rstate = .acc ∧
        t3.cause = .seqGap ∧ t3.disc = true ∧ t3.rstate = .idle ∧ t3.msgValid = false ∧
        t4.cause = .seqNoFrame ∧ t4.rstate = .idle ∧ t4.msgValid = false

/-- 44_frame_rx.md R215: a whole frame B, of any number of chunks, received while a frame A is open,
whatever A has accumulated (its last chunk has not come): A is discarded with `DISC = 1` and no error,
and B alone is delivered. A valid first chunk of A that is not its last leaves A open, from any
state. -/
def Obligations.RestartAssemblesTheNewFrame : Prop :=
  ∀ (s : State) (bs : List Received), WholeFrame s.cfg.toCfgData bs →
    (s.rstate = .acc →
      ∃ ts, receiveAll (bs.map Received.wire) s = some ts ∧ ts.length = bs.length ∧
        frameReceived true (bs.any fun b => b.header.binary) (bs.flatMap Received.payload) ts) ∧
    ∀ a : Received, ValidChunk s.cfg.toCfgData a.wire a.header a.payload → a.header.first = true →
      a.header.last = false → a.header.sn = 0#5 → a.payload.length ≤ s.cfg.maxf →
        ∃ ta ts, receiveAll (a.wire :: bs.map Received.wire) s = some (ta :: ts) ∧
          ta.cause = .none ∧ ta.rstate = .acc ∧ ts.length = bs.length ∧
          frameReceived true (bs.any fun b => b.header.binary) (bs.flatMap Received.payload) ts

/-- 44_frame_rx.md R216: reassembling the chunks of a disassembled message gives the message back,
from any state of the block, for every configuration whose sentinel no plain header can equal, with
any other transactions interleaved but `CHUNK_RX` and `SRESET`. -/
def Obligations.ReassemblyOfADisassembledMessage : Prop :=
  ∀ (s : State) (msg : List Byte), s.cfg.rtSafe = true → msg.length ≤ s.cfg.maxf →
    ∃ chunks, disassemble s.cfg.toCfgData msg = some chunks ∧
      ∀ rounds : List Round, rounds.map Round.chunk = chunks →
        (∀ r ∈ rounds, r.allowed s.cfg.toCfgData) →
          ∃ ts, receiveRounds rounds s = some ts ∧ ts.length = chunks.length ∧
            frameReceived (s.rstate == .acc) (s.cfg.b64En && isBinary s.cfg.toCfgData msg) msg ts

/-! ## Reset, invariants and rules about every command -/

/-- 10_state.md R47, 45_system.md R230: the values after hardware reset, of a block with any
configuration, and after `SRESET`, which gives the same state without touching IBUF; what the host
still has to do is not the block's. -/
def Obligations.ResetValues : Prop :=
  (∀ c : Cfg, let s := State.resetOf c
    s.cfg = c ∧ s.hash = 0x811C9DC5#32 ∧ s.res = 0#32 ∧ s.ilen = 0#32 ∧ s.olen = 0#32 ∧
    s.omax.toNat = c.obufSize ∧ (∀ i, s.ibuf.readByte i = none) ∧
    (∀ i, s.obuf.readByte i = none) ∧ (∀ i, s.rbuf.readByte i = none) ∧ s.rstate = .idle ∧
    s.rlen = 0 ∧ s.expSn = 0#5 ∧ s.frameBin = false ∧ s.msgValid = false ∧ s.msgLen = 0 ∧
    s.msgBin = false ∧ s.cause = .none ∧ s.disc = false) ∧
  decodeWord 0x00000001#32 = .ok .sreset ∧
  ∀ s : State, exec .sreset s = .next { State.resetOf s.cfg with
    ibuf := s.ibuf, pending := s.pending, response := s.response, served := s.served }

/-- 10_state.md R48: the invariants hold after reset, of a block with any configuration. -/
def Obligations.InvariantHoldsAtReset : Prop :=
  (∀ c : Cfg, (State.resetOf c).Inv) ∧ State.reset.Inv

/-- 10_state.md R48: every step keeps the invariants, whatever the host's transaction. -/
def Obligations.StepKeepsTheInvariant : Prop :=
  ∀ s t : State, s.Inv → step s = .next t → t.Inv

/-- 70_reset_and_hazards.md R292: no transaction and no command changes `Cfg`. -/
def Obligations.ConfigurationIsConstant : Prop :=
  ∀ s t : State, step s = .next t → t.cfg = s.cfg

/-- 45_system.md R231, R233, R234: every command ends, in success with `CAUSE = 0` or in failure with
`RES = 0`; and `DISC = 1` only when it was a `CHUNK_RX` that found an open frame (10_state.md R35,
R48 h). -/
def Obligations.EveryCommandSucceedsOrFails : Prop :=
  ∀ (i : Instr) (s : State), ∃ t, exec i s = .next t ∧ (t.cause ≠ .none → t.res = 0#32) ∧
    t.cause ≠ .illegal ∧ (t.disc = true → i = .chunkRx ∧ s.rstate = .acc)

/-- 45_system.md R233: what a failed command leaves, whatever its cause: `RES = 0`; a producing
command `OLEN = 0` and no specified byte below `OBOUND`, any other one nothing else changed; but
`CHUNK_RX`, which past its size check says in `DISC` whether it discarded an open frame and whose
assignments before the `raise` stand. -/
def Obligations.FailedCommandEffect : Prop :=
  ∀ (i : Instr) (s t : State), exec i s = .next t → t.cause ≠ .none →
    if isProducing i then failedProducing t.cause s t
    else if i = .chunkRx then
      failedPlain .size s t ∨
        receptionFailed t.cause (if t.cause = .seqNoFrame then s.rlen else 0) s t
    else failedPlain t.cause s t

/-- 10_state.md R37: which commands write what: `HASH` the three `FNV_` commands, the reassembler and
the message only `CHUNK_RX`, `OLEN` and OBUF only the producing commands (below `OBOUND`), each but
for `SRESET`; and no command writes IBUF, and none but `SRESET` writes `ILEN` or `OMAX`. -/
def Obligations.WhichCommandsWriteWhat : Prop :=
  ∀ (i : Instr) (s t : State), exec i s = .next t →
    t.ibuf = s.ibuf ∧ t.pending = s.pending ∧ t.response = s.response ∧ t.served = s.served ∧
    (i ≠ .sreset → t.ilen = s.ilen ∧ t.omax = s.omax ∧
      (i ≠ .fnvInit → i ≠ .fnvBlock → (∀ b, i ≠ .fnvUpdate b) → t.hash = s.hash) ∧
      (i ≠ .chunkRx → t.rstate = s.rstate ∧ t.rlen = s.rlen ∧ t.expSn = s.expSn ∧
        t.frameBin = s.frameBin ∧ t.msgValid = s.msgValid ∧ t.msgLen = s.msgLen ∧
        t.msgBin = s.msgBin ∧ t.rbuf = s.rbuf) ∧
      (∀ a, obound s ≤ a → t.obuf.readByte a = s.obuf.readByte a) ∧
      (isProducing i = false → t.olen = s.olen ∧ t.obuf = s.obuf))

/-- 20_memory.md R72: a command's result depends on no IBUF byte at or beyond `ILEN`, and no command
writes IBUF: two blocks that differ in such bytes alone end alike. A command with an input string
fails with `E_SIZE`, having read nothing, when `ILEN` is beyond IBUF; a command without one reads no
byte. -/
def Obligations.ResultDependsOnTheDeclaredInputOnly : Prop :=
  ∀ (i : Instr) (s : State) (m : Memory),
    (takesInput i = true → s.ilen.toNat ≤ s.cfg.ibufSize →
      ∀ a < s.ilen.toNat, inputByte { s with ibuf := m } a = inputByte s a) →
      ∃ t, exec i s = .next t ∧ exec i { s with ibuf := m } = .next { t with ibuf := m } ∧
        t.ibuf = s.ibuf ∧
        (takesInput i = true → s.cfg.ibufSize < s.ilen.toNat → t.cause = .size)
end

