-- ==== Sys2Proof/Laws/Memory.lean ====
section
/-! SUPPORT. The laws of the byte buffers: what a read answers after each operation, that each keeps
the canonical form, and that in that form equal contents are equal data. -/

namespace Sys2Proof.Machine

/-! ### Reading after writing and forgetting -/

theorem Memory.readByte_cons (k : Nat) (b : Byte) (rest : Memory) (i : Nat) :
    Memory.readByte ((k, b) :: rest) i = if k = i then some b else Memory.readByte rest i := rfl

theorem Memory.readByte_writeByte (m : Memory) (a : Nat) (b : Byte) (i : Nat) :
    (m.writeByte a b).readByte i = if i = a then some b else m.readByte i := by
  induction m with
  | nil => simp [writeByte, readByte, eq_comm]
  | cons c rest ih =>
    obtain ⟨k, v⟩ := c
    by_cases hlt : a < k
    · simp only [writeByte, if_pos hlt, readByte_cons, eq_comm]
    · by_cases heq : a = k
      · subst heq
        by_cases hi : a = i <;> simp [writeByte, readByte_cons, hi, eq_comm]
      · by_cases hi : k = i
        · subst hi
          have : k ≠ a := fun h => heq h.symm
          simp [writeByte, hlt, heq, readByte_cons, this]
        · simp [writeByte, hlt, heq, readByte_cons, hi, ih]

@[simp] theorem Memory.readByte_writeByte_self (m : Memory) (a : Nat) (b : Byte) :
    (m.writeByte a b).readByte a = some b := by
  simp [readByte_writeByte]

theorem Memory.readByte_writeBytes (m : Memory) (a : Nat) (bs : List Byte) (i : Nat) :
    (m.writeBytes a bs).readByte i =
      if a ≤ i ∧ i < a + bs.length then bs[i - a]? else m.readByte i := by
  induction bs generalizing m a with
  | nil => simp only [writeBytes, List.length_nil]; rw [if_neg (by omega)]
  | cons b bs ih =>
    rw [writeBytes, ih, readByte_writeByte]
    rcases Nat.lt_trichotomy i a with h | rfl | h
    · rw [if_neg (by omega), if_neg (by omega), if_neg (by omega)]
    · rw [if_neg (by omega), if_pos rfl, if_pos (by simp)]
      simp
    · have hsub : i - a = (i - (a + 1)) + 1 := by omega
      by_cases hi : i < a + 1 + bs.length
      · rw [if_pos (by omega), if_pos (by simp only [List.length_cons]; omega), hsub,
          List.getElem?_cons_succ]
      · rw [if_neg (by omega), if_neg (by omega),
          if_neg (by simp only [List.length_cons]; omega)]

theorem Memory.readByte_forgetBelow (m : Memory) (n i : Nat) :
    (m.forgetBelow n).readByte i = if i < n then none else m.readByte i := by
  induction m with
  | nil => simp [forgetBelow, readByte]
  | cons c rest ih =>
    obtain ⟨k, v⟩ := c
    have ih' : Memory.readByte (List.filter (fun c => decide (n ≤ c.1)) rest) i =
        if i < n then none else readByte rest i := ih
    by_cases hk : n ≤ k
    · simp only [forgetBelow, List.filter_cons, hk, decide_true, if_true, readByte_cons, ih']
      by_cases hi : k = i
      · subst hi; simp [Nat.not_lt.mpr hk]
      · simp [hi]
    · simp only [forgetBelow, List.filter_cons, hk, decide_false, Bool.false_eq_true, if_false,
        ih', readByte_cons]
      by_cases hi : k = i
      · subst hi; simp [Nat.lt_of_not_le hk]
      · simp [hi]

theorem Memory.mem_of_readByte {m : Memory} {i : Nat} {b : Byte} (h : m.readByte i = some b) :
    (i, b) ∈ m := by
  induction m with
  | nil => simp [readByte] at h
  | cons c rest ih =>
    obtain ⟨k, v⟩ := c
    rw [readByte_cons] at h
    split at h
    · next hk => cases h; subst hk; exact List.mem_cons_self
    · exact List.mem_cons_of_mem _ (ih h)

/-! ### The canonical form and the bounds of a buffer -/

theorem Memory.mem_writeByte {m : Memory} {a : Nat} {b : Byte} {c : Host.Cell}
    (h : c ∈ m.writeByte a b) : c = (a, b) ∨ c ∈ m := by
  induction m with
  | nil => simpa [writeByte] using h
  | cons d rest ih =>
    obtain ⟨k, v⟩ := d
    unfold writeByte at h
    split at h
    · rcases List.mem_cons.mp h with h | h
      · exact .inl h
      · exact .inr h
    · split at h
      · rcases List.mem_cons.mp h with h | h
        · exact .inl h
        · exact .inr (List.mem_cons_of_mem _ h)
      · rcases List.mem_cons.mp h with h | h
        · exact .inr (h ▸ List.mem_cons_self)
        · exact (ih h).imp_right (List.mem_cons_of_mem _)

theorem Memory.wf_writeByte {m : Memory} (h : m.wf) (a : Nat) (b : Byte) :
    (m.writeByte a b).wf := by
  induction m with
  | nil => simp [writeByte, wf]
  | cons d rest ih =>
    obtain ⟨k, v⟩ := d
    obtain ⟨hk, hrest⟩ := List.pairwise_cons.mp h
    unfold writeByte
    split
    · next hlt =>
      refine List.pairwise_cons.mpr ⟨fun c hc => ?_, h⟩
      rcases List.mem_cons.mp hc with rfl | hc
      · exact hlt
      · exact Nat.lt_trans hlt (hk c hc)
    · split
      · next heq => exact List.pairwise_cons.mpr ⟨fun c hc => heq ▸ hk c hc, hrest⟩
      · next hlt hne =>
        refine List.pairwise_cons.mpr ⟨fun c hc => ?_, ih hrest⟩
        rcases mem_writeByte hc with rfl | hc
        · show k < a
          omega
        · exact hk c hc

theorem Memory.wf_writeBytes {m : Memory} (h : m.wf) (a : Nat) (bs : List Byte) :
    (m.writeBytes a bs).wf := by
  induction bs generalizing m a with
  | nil => exact h
  | cons b bs ih => exact ih (wf_writeByte h a b) (a + 1)

theorem Memory.wf_forgetBelow {m : Memory} (h : m.wf) (n : Nat) : (m.forgetBelow n).wf :=
  List.Pairwise.filter _ h

theorem Memory.mem_writeBytes {m : Memory} {a : Nat} {bs : List Byte} {c : Host.Cell}
    (h : c ∈ m.writeBytes a bs) : (a ≤ c.1 ∧ c.1 < a + bs.length) ∨ c ∈ m := by
  induction bs generalizing m a with
  | nil => exact .inr h
  | cons b bs ih =>
    rcases ih h with h | h
    · exact .inl (by simp only [List.length_cons]; omega)
    · rcases mem_writeByte h with rfl | h
      · exact .inl (by simp)
      · exact .inr h

theorem Memory.mem_of_mem_forgetBelow {m : Memory} {n : Nat} {c : Host.Cell}
    (h : c ∈ m.forgetBelow n) : c ∈ m := (List.mem_filter.mp h).1

/-! ### Equal contents are equal data -/

theorem Memory.readByte_eq_none_of_lt {m : Memory} {i : Nat} (h : ∀ c ∈ m, i < c.1) :
    m.readByte i = none := by
  cases hr : m.readByte i with
  | none => rfl
  | some b => exact absurd (h _ (mem_of_readByte hr)) (by simp)

theorem Memory.ext {m k : Memory} (hm : m.wf) (hk : k.wf)
    (h : ∀ i, m.readByte i = k.readByte i) : m = k := by
  induction m generalizing k with
  | nil =>
    cases k with
    | nil => rfl
    | cons d rest => simpa [readByte] using h d.1
  | cons c rest ih =>
    obtain ⟨a, v⟩ := c
    obtain ⟨hlt, hrest⟩ := List.pairwise_cons.mp hm
    cases k with
    | nil => simpa [readByte] using h a
    | cons d rest' =>
      obtain ⟨b, w⟩ := d
      obtain ⟨hlt', hrest'⟩ := List.pairwise_cons.mp hk
      have hab : a = b := by
        rcases Nat.lt_trichotomy a b with hab | hab | hab
        · have hn : Memory.readByte ((b, w) :: rest') a = none :=
            readByte_eq_none_of_lt fun c hc => by
              rcases List.mem_cons.mp hc with rfl | hc
              · exact hab
              · exact Nat.lt_trans hab (hlt' c hc)
          have := h a
          simp [hn, readByte_cons] at this
        · exact hab
        · have hn : Memory.readByte ((a, v) :: rest) b = none :=
            readByte_eq_none_of_lt fun c hc => by
              rcases List.mem_cons.mp hc with rfl | hc
              · exact hab
              · exact Nat.lt_trans hab (hlt c hc)
          have := h b
          simp [hn, readByte_cons] at this
      subst hab
      have hvw : v = w := by simpa [readByte_cons] using h a
      subst hvw
      refine congrArg _ (ih hrest hrest' fun i => ?_)
      by_cases hi : a = i
      · subst hi
        rw [readByte_eq_none_of_lt hlt, readByte_eq_none_of_lt hlt']
      · simpa [readByte_cons, hi] using h i

end Sys2Proof.Machine
end

