-- ==== Sys2Proof/Laws/State.lean ====
section
/-! SUPPORT. One lemma per field of State for each named update, true by definition, so that no proof
unfolds a record update. -/

namespace Sys2Proof.Machine

section

variable (c : Cause) (d : Bool) (s : State)

@[simp] theorem raise_cfg : (raise c d s).cfg = s.cfg := rfl
@[simp] theorem raise_hash : (raise c d s).hash = s.hash := rfl
@[simp] theorem raise_res : (raise c d s).res = 0#32 := rfl
@[simp] theorem raise_ilen : (raise c d s).ilen = s.ilen := rfl
@[simp] theorem raise_olen : (raise c d s).olen = s.olen := rfl
@[simp] theorem raise_omax : (raise c d s).omax = s.omax := rfl
@[simp] theorem raise_ibuf : (raise c d s).ibuf = s.ibuf := rfl
@[simp] theorem raise_obuf : (raise c d s).obuf = s.obuf := rfl
@[simp] theorem raise_rbuf : (raise c d s).rbuf = s.rbuf := rfl
@[simp] theorem raise_rstate : (raise c d s).rstate = s.rstate := rfl
@[simp] theorem raise_rlen : (raise c d s).rlen = s.rlen := rfl
@[simp] theorem raise_expSn : (raise c d s).expSn = s.expSn := rfl
@[simp] theorem raise_frameBin : (raise c d s).frameBin = s.frameBin := rfl
@[simp] theorem raise_msgValid : (raise c d s).msgValid = s.msgValid := rfl
@[simp] theorem raise_msgLen : (raise c d s).msgLen = s.msgLen := rfl
@[simp] theorem raise_msgBin : (raise c d s).msgBin = s.msgBin := rfl
@[simp] theorem raise_cause : (raise c d s).cause = c := rfl
@[simp] theorem raise_disc : (raise c d s).disc = d := rfl
@[simp] theorem raise_pending : (raise c d s).pending = s.pending := rfl
@[simp] theorem raise_response : (raise c d s).response = s.response := rfl
@[simp] theorem raise_served : (raise c d s).served = s.served := rfl

end

section

variable (c : Cause) (s : State)

@[simp] theorem raiseProducing_cfg : (raiseProducing c s).cfg = s.cfg := rfl
@[simp] theorem raiseProducing_hash : (raiseProducing c s).hash = s.hash := rfl
@[simp] theorem raiseProducing_res : (raiseProducing c s).res = 0#32 := rfl
@[simp] theorem raiseProducing_ilen : (raiseProducing c s).ilen = s.ilen := rfl
@[simp] theorem raiseProducing_olen : (raiseProducing c s).olen = 0#32 := rfl
@[simp] theorem raiseProducing_omax : (raiseProducing c s).omax = s.omax := rfl
@[simp] theorem raiseProducing_ibuf : (raiseProducing c s).ibuf = s.ibuf := rfl
@[simp] theorem raiseProducing_obuf :
    (raiseProducing c s).obuf = s.obuf.forgetBelow (obound s) := rfl
@[simp] theorem raiseProducing_rbuf : (raiseProducing c s).rbuf = s.rbuf := rfl
@[simp] theorem raiseProducing_rstate : (raiseProducing c s).rstate = s.rstate := rfl
@[simp] theorem raiseProducing_rlen : (raiseProducing c s).rlen = s.rlen := rfl
@[simp] theorem raiseProducing_expSn : (raiseProducing c s).expSn = s.expSn := rfl
@[simp] theorem raiseProducing_frameBin : (raiseProducing c s).frameBin = s.frameBin := rfl
@[simp] theorem raiseProducing_msgValid : (raiseProducing c s).msgValid = s.msgValid := rfl
@[simp] theorem raiseProducing_msgLen : (raiseProducing c s).msgLen = s.msgLen := rfl
@[simp] theorem raiseProducing_msgBin : (raiseProducing c s).msgBin = s.msgBin := rfl
@[simp] theorem raiseProducing_cause : (raiseProducing c s).cause = c := rfl
@[simp] theorem raiseProducing_disc : (raiseProducing c s).disc = false := rfl
@[simp] theorem raiseProducing_pending : (raiseProducing c s).pending = s.pending := rfl
@[simp] theorem raiseProducing_response : (raiseProducing c s).response = s.response := rfl
@[simp] theorem raiseProducing_served : (raiseProducing c s).served = s.served := rfl

end

section

variable (r : Word) (d : Bool) (s : State)

@[simp] theorem succeed_cfg : (succeed r d s).cfg = s.cfg := rfl
@[simp] theorem succeed_hash : (succeed r d s).hash = s.hash := rfl
@[simp] theorem succeed_res : (succeed r d s).res = r := rfl
@[simp] theorem succeed_ilen : (succeed r d s).ilen = s.ilen := rfl
@[simp] theorem succeed_olen : (succeed r d s).olen = s.olen := rfl
@[simp] theorem succeed_omax : (succeed r d s).omax = s.omax := rfl
@[simp] theorem succeed_ibuf : (succeed r d s).ibuf = s.ibuf := rfl
@[simp] theorem succeed_obuf : (succeed r d s).obuf = s.obuf := rfl
@[simp] theorem succeed_rbuf : (succeed r d s).rbuf = s.rbuf := rfl
@[simp] theorem succeed_rstate : (succeed r d s).rstate = s.rstate := rfl
@[simp] theorem succeed_rlen : (succeed r d s).rlen = s.rlen := rfl
@[simp] theorem succeed_expSn : (succeed r d s).expSn = s.expSn := rfl
@[simp] theorem succeed_frameBin : (succeed r d s).frameBin = s.frameBin := rfl
@[simp] theorem succeed_msgValid : (succeed r d s).msgValid = s.msgValid := rfl
@[simp] theorem succeed_msgLen : (succeed r d s).msgLen = s.msgLen := rfl
@[simp] theorem succeed_msgBin : (succeed r d s).msgBin = s.msgBin := rfl
@[simp] theorem succeed_cause : (succeed r d s).cause = .none := rfl
@[simp] theorem succeed_disc : (succeed r d s).disc = d := rfl
@[simp] theorem succeed_pending : (succeed r d s).pending = s.pending := rfl
@[simp] theorem succeed_response : (succeed r d s).response = s.response := rfl
@[simp] theorem succeed_served : (succeed r d s).served = s.served := rfl

end

section

variable (out : List Byte) (r : Word) (s : State)

@[simp] theorem produce_cfg : (produce out r s).cfg = s.cfg := rfl
@[simp] theorem produce_hash : (produce out r s).hash = s.hash := rfl
@[simp] theorem produce_res : (produce out r s).res = r := rfl
@[simp] theorem produce_ilen : (produce out r s).ilen = s.ilen := rfl
@[simp] theorem produce_olen : (produce out r s).olen = lenWord out.length := rfl
@[simp] theorem produce_omax : (produce out r s).omax = s.omax := rfl
@[simp] theorem produce_ibuf : (produce out r s).ibuf = s.ibuf := rfl
@[simp] theorem produce_obuf :
    (produce out r s).obuf = (s.obuf.forgetBelow (obound s)).writeBytes 0 out := rfl
@[simp] theorem produce_rbuf : (produce out r s).rbuf = s.rbuf := rfl
@[simp] theorem produce_rstate : (produce out r s).rstate = s.rstate := rfl
@[simp] theorem produce_rlen : (produce out r s).rlen = s.rlen := rfl
@[simp] theorem produce_expSn : (produce out r s).expSn = s.expSn := rfl
@[simp] theorem produce_frameBin : (produce out r s).frameBin = s.frameBin := rfl
@[simp] theorem produce_msgValid : (produce out r s).msgValid = s.msgValid := rfl
@[simp] theorem produce_msgLen : (produce out r s).msgLen = s.msgLen := rfl
@[simp] theorem produce_msgBin : (produce out r s).msgBin = s.msgBin := rfl
@[simp] theorem produce_cause : (produce out r s).cause = .none := rfl
@[simp] theorem produce_disc : (produce out r s).disc = false := rfl
@[simp] theorem produce_pending : (produce out r s).pending = s.pending := rfl
@[simp] theorem produce_response : (produce out r s).response = s.response := rfl
@[simp] theorem produce_served : (produce out r s).served = s.served := rfl

end

section

variable (h : Word) (s : State)

@[simp] theorem setHash_cfg : (setHash h s).cfg = s.cfg := rfl
@[simp] theorem setHash_hash : (setHash h s).hash = h := rfl
@[simp] theorem setHash_res : (setHash h s).res = h := rfl
@[simp] theorem setHash_ilen : (setHash h s).ilen = s.ilen := rfl
@[simp] theorem setHash_olen : (setHash h s).olen = s.olen := rfl
@[simp] theorem setHash_omax : (setHash h s).omax = s.omax := rfl
@[simp] theorem setHash_ibuf : (setHash h s).ibuf = s.ibuf := rfl
@[simp] theorem setHash_obuf : (setHash h s).obuf = s.obuf := rfl
@[simp] theorem setHash_rbuf : (setHash h s).rbuf = s.rbuf := rfl
@[simp] theorem setHash_rstate : (setHash h s).rstate = s.rstate := rfl
@[simp] theorem setHash_rlen : (setHash h s).rlen = s.rlen := rfl
@[simp] theorem setHash_expSn : (setHash h s).expSn = s.expSn := rfl
@[simp] theorem setHash_frameBin : (setHash h s).frameBin = s.frameBin := rfl
@[simp] theorem setHash_msgValid : (setHash h s).msgValid = s.msgValid := rfl
@[simp] theorem setHash_msgLen : (setHash h s).msgLen = s.msgLen := rfl
@[simp] theorem setHash_msgBin : (setHash h s).msgBin = s.msgBin := rfl
@[simp] theorem setHash_cause : (setHash h s).cause = .none := rfl
@[simp] theorem setHash_disc : (setHash h s).disc = false := rfl
@[simp] theorem setHash_pending : (setHash h s).pending = s.pending := rfl
@[simp] theorem setHash_response : (setHash h s).response = s.response := rfl
@[simp] theorem setHash_served : (setHash h s).served = s.served := rfl

end

section

variable (s : State)

@[simp] theorem softReset_cfg : (softReset s).cfg = s.cfg := rfl
@[simp] theorem softReset_hash : (softReset s).hash = 0x811C9DC5#32 := rfl
@[simp] theorem softReset_res : (softReset s).res = 0#32 := rfl
@[simp] theorem softReset_ilen : (softReset s).ilen = 0#32 := rfl
@[simp] theorem softReset_olen : (softReset s).olen = 0#32 := rfl
@[simp] theorem softReset_omax : (softReset s).omax = BitVec.ofNat 32 s.cfg.obufSize := rfl
@[simp] theorem softReset_ibuf : (softReset s).ibuf = s.ibuf := rfl
@[simp] theorem softReset_obuf : (softReset s).obuf = [] := rfl
@[simp] theorem softReset_rbuf : (softReset s).rbuf = [] := rfl
@[simp] theorem softReset_rstate : (softReset s).rstate = .idle := rfl
@[simp] theorem softReset_rlen : (softReset s).rlen = 0 := rfl
@[simp] theorem softReset_expSn : (softReset s).expSn = 0#5 := rfl
@[simp] theorem softReset_frameBin : (softReset s).frameBin = false := rfl
@[simp] theorem softReset_msgValid : (softReset s).msgValid = false := rfl
@[simp] theorem softReset_msgLen : (softReset s).msgLen = 0 := rfl
@[simp] theorem softReset_msgBin : (softReset s).msgBin = false := rfl
@[simp] theorem softReset_cause : (softReset s).cause = .none := rfl
@[simp] theorem softReset_disc : (softReset s).disc = false := rfl
@[simp] theorem softReset_pending : (softReset s).pending = s.pending := rfl
@[simp] theorem softReset_response : (softReset s).response = s.response := rfl
@[simp] theorem softReset_served : (softReset s).served = s.served := rfl

end

section

variable (s : State)

@[simp] theorem rxClearMessage_cfg : (rxClearMessage s).cfg = s.cfg := rfl
@[simp] theorem rxClearMessage_hash : (rxClearMessage s).hash = s.hash := rfl
@[simp] theorem rxClearMessage_res : (rxClearMessage s).res = s.res := rfl
@[simp] theorem rxClearMessage_ilen : (rxClearMessage s).ilen = s.ilen := rfl
@[simp] theorem rxClearMessage_olen : (rxClearMessage s).olen = s.olen := rfl
@[simp] theorem rxClearMessage_omax : (rxClearMessage s).omax = s.omax := rfl
@[simp] theorem rxClearMessage_ibuf : (rxClearMessage s).ibuf = s.ibuf := rfl
@[simp] theorem rxClearMessage_obuf : (rxClearMessage s).obuf = s.obuf := rfl
@[simp] theorem rxClearMessage_rbuf : (rxClearMessage s).rbuf = s.rbuf := rfl
@[simp] theorem rxClearMessage_rstate : (rxClearMessage s).rstate = s.rstate := rfl
@[simp] theorem rxClearMessage_rlen : (rxClearMessage s).rlen = s.rlen := rfl
@[simp] theorem rxClearMessage_expSn : (rxClearMessage s).expSn = s.expSn := rfl
@[simp] theorem rxClearMessage_frameBin : (rxClearMessage s).frameBin = s.frameBin := rfl
@[simp] theorem rxClearMessage_msgValid : (rxClearMessage s).msgValid = false := rfl
@[simp] theorem rxClearMessage_msgLen : (rxClearMessage s).msgLen = 0 := rfl
@[simp] theorem rxClearMessage_msgBin : (rxClearMessage s).msgBin = false := rfl
@[simp] theorem rxClearMessage_cause : (rxClearMessage s).cause = s.cause := rfl
@[simp] theorem rxClearMessage_disc : (rxClearMessage s).disc = s.disc := rfl
@[simp] theorem rxClearMessage_pending : (rxClearMessage s).pending = s.pending := rfl
@[simp] theorem rxClearMessage_response : (rxClearMessage s).response = s.response := rfl
@[simp] theorem rxClearMessage_served : (rxClearMessage s).served = s.served := rfl

end

section

variable (s : State)

@[simp] theorem rxDiscard_cfg : (rxDiscard s).cfg = s.cfg := rfl
@[simp] theorem rxDiscard_hash : (rxDiscard s).hash = s.hash := rfl
@[simp] theorem rxDiscard_res : (rxDiscard s).res = s.res := rfl
@[simp] theorem rxDiscard_ilen : (rxDiscard s).ilen = s.ilen := rfl
@[simp] theorem rxDiscard_olen : (rxDiscard s).olen = s.olen := rfl
@[simp] theorem rxDiscard_omax : (rxDiscard s).omax = s.omax := rfl
@[simp] theorem rxDiscard_ibuf : (rxDiscard s).ibuf = s.ibuf := rfl
@[simp] theorem rxDiscard_obuf : (rxDiscard s).obuf = s.obuf := rfl
@[simp] theorem rxDiscard_rbuf : (rxDiscard s).rbuf = s.rbuf := rfl
@[simp] theorem rxDiscard_rstate : (rxDiscard s).rstate = .idle := rfl
@[simp] theorem rxDiscard_rlen : (rxDiscard s).rlen = 0 := rfl
@[simp] theorem rxDiscard_expSn : (rxDiscard s).expSn = s.expSn := rfl
@[simp] theorem rxDiscard_frameBin : (rxDiscard s).frameBin = s.frameBin := rfl
@[simp] theorem rxDiscard_msgValid : (rxDiscard s).msgValid = s.msgValid := rfl
@[simp] theorem rxDiscard_msgLen : (rxDiscard s).msgLen = s.msgLen := rfl
@[simp] theorem rxDiscard_msgBin : (rxDiscard s).msgBin = s.msgBin := rfl
@[simp] theorem rxDiscard_cause : (rxDiscard s).cause = s.cause := rfl
@[simp] theorem rxDiscard_disc : (rxDiscard s).disc = s.disc := rfl
@[simp] theorem rxDiscard_pending : (rxDiscard s).pending = s.pending := rfl
@[simp] theorem rxDiscard_response : (rxDiscard s).response = s.response := rfl
@[simp] theorem rxDiscard_served : (rxDiscard s).served = s.served := rfl

end

section

variable (c : Cause) (s : State)

@[simp] theorem rxFail_cfg : (rxFail c s).cfg = s.cfg := rfl
@[simp] theorem rxFail_hash : (rxFail c s).hash = s.hash := rfl
@[simp] theorem rxFail_res : (rxFail c s).res = 0#32 := rfl
@[simp] theorem rxFail_ilen : (rxFail c s).ilen = s.ilen := rfl
@[simp] theorem rxFail_olen : (rxFail c s).olen = s.olen := rfl
@[simp] theorem rxFail_omax : (rxFail c s).omax = s.omax := rfl
@[simp] theorem rxFail_ibuf : (rxFail c s).ibuf = s.ibuf := rfl
@[simp] theorem rxFail_obuf : (rxFail c s).obuf = s.obuf := rfl
@[simp] theorem rxFail_rbuf : (rxFail c s).rbuf = s.rbuf := rfl
@[simp] theorem rxFail_rstate : (rxFail c s).rstate = .idle := rfl
@[simp] theorem rxFail_rlen : (rxFail c s).rlen = 0 := rfl
@[simp] theorem rxFail_expSn : (rxFail c s).expSn = s.expSn := rfl
@[simp] theorem rxFail_frameBin : (rxFail c s).frameBin = s.frameBin := rfl
@[simp] theorem rxFail_msgValid : (rxFail c s).msgValid = s.msgValid := rfl
@[simp] theorem rxFail_msgLen : (rxFail c s).msgLen = s.msgLen := rfl
@[simp] theorem rxFail_msgBin : (rxFail c s).msgBin = s.msgBin := rfl
@[simp] theorem rxFail_cause : (rxFail c s).cause = c := rfl
@[simp] theorem rxFail_disc : (rxFail c s).disc = accumulating s := rfl
@[simp] theorem rxFail_pending : (rxFail c s).pending = s.pending := rfl
@[simp] theorem rxFail_response : (rxFail c s).response = s.response := rfl
@[simp] theorem rxFail_served : (rxFail c s).served = s.served := rfl

end

section

variable (b : Bool) (p : List Byte) (s : State)

@[simp] theorem rxOpen_cfg : (rxOpen b p s).cfg = s.cfg := rfl
@[simp] theorem rxOpen_hash : (rxOpen b p s).hash = s.hash := rfl
@[simp] theorem rxOpen_res : (rxOpen b p s).res = s.res := rfl
@[simp] theorem rxOpen_ilen : (rxOpen b p s).ilen = s.ilen := rfl
@[simp] theorem rxOpen_olen : (rxOpen b p s).olen = s.olen := rfl
@[simp] theorem rxOpen_omax : (rxOpen b p s).omax = s.omax := rfl
@[simp] theorem rxOpen_ibuf : (rxOpen b p s).ibuf = s.ibuf := rfl
@[simp] theorem rxOpen_obuf : (rxOpen b p s).obuf = s.obuf := rfl
@[simp] theorem rxOpen_rbuf : (rxOpen b p s).rbuf = s.rbuf.writeBytes 0 p := rfl
@[simp] theorem rxOpen_rstate : (rxOpen b p s).rstate = .acc := rfl
@[simp] theorem rxOpen_rlen : (rxOpen b p s).rlen = p.length := rfl
@[simp] theorem rxOpen_expSn : (rxOpen b p s).expSn = 1#5 := rfl
@[simp] theorem rxOpen_frameBin : (rxOpen b p s).frameBin = b := rfl
@[simp] theorem rxOpen_msgValid : (rxOpen b p s).msgValid = s.msgValid := rfl
@[simp] theorem rxOpen_msgLen : (rxOpen b p s).msgLen = s.msgLen := rfl
@[simp] theorem rxOpen_msgBin : (rxOpen b p s).msgBin = s.msgBin := rfl
@[simp] theorem rxOpen_cause : (rxOpen b p s).cause = s.cause := rfl
@[simp] theorem rxOpen_disc : (rxOpen b p s).disc = s.disc := rfl
@[simp] theorem rxOpen_pending : (rxOpen b p s).pending = s.pending := rfl
@[simp] theorem rxOpen_response : (rxOpen b p s).response = s.response := rfl
@[simp] theorem rxOpen_served : (rxOpen b p s).served = s.served := rfl

end

section

variable (b : Bool) (p : List Byte) (s : State)

@[simp] theorem rxAppend_cfg : (rxAppend b p s).cfg = s.cfg := rfl
@[simp] theorem rxAppend_hash : (rxAppend b p s).hash = s.hash := rfl
@[simp] theorem rxAppend_res : (rxAppend b p s).res = s.res := rfl
@[simp] theorem rxAppend_ilen : (rxAppend b p s).ilen = s.ilen := rfl
@[simp] theorem rxAppend_olen : (rxAppend b p s).olen = s.olen := rfl
@[simp] theorem rxAppend_omax : (rxAppend b p s).omax = s.omax := rfl
@[simp] theorem rxAppend_ibuf : (rxAppend b p s).ibuf = s.ibuf := rfl
@[simp] theorem rxAppend_obuf : (rxAppend b p s).obuf = s.obuf := rfl
@[simp] theorem rxAppend_rbuf : (rxAppend b p s).rbuf = s.rbuf.writeBytes s.rlen p := rfl
@[simp] theorem rxAppend_rstate : (rxAppend b p s).rstate = s.rstate := rfl
@[simp] theorem rxAppend_rlen : (rxAppend b p s).rlen = s.rlen + p.length := rfl
@[simp] theorem rxAppend_expSn : (rxAppend b p s).expSn = s.expSn + 1#5 := rfl
@[simp] theorem rxAppend_frameBin : (rxAppend b p s).frameBin = (s.frameBin || b) := rfl
@[simp] theorem rxAppend_msgValid : (rxAppend b p s).msgValid = s.msgValid := rfl
@[simp] theorem rxAppend_msgLen : (rxAppend b p s).msgLen = s.msgLen := rfl
@[simp] theorem rxAppend_msgBin : (rxAppend b p s).msgBin = s.msgBin := rfl
@[simp] theorem rxAppend_cause : (rxAppend b p s).cause = s.cause := rfl
@[simp] theorem rxAppend_disc : (rxAppend b p s).disc = s.disc := rfl
@[simp] theorem rxAppend_pending : (rxAppend b p s).pending = s.pending := rfl
@[simp] theorem rxAppend_response : (rxAppend b p s).response = s.response := rfl
@[simp] theorem rxAppend_served : (rxAppend b p s).served = s.served := rfl

end

section

variable (s : State)

@[simp] theorem rxDeliver_cfg : (rxDeliver s).cfg = s.cfg := rfl
@[simp] theorem rxDeliver_hash : (rxDeliver s).hash = s.hash := rfl
@[simp] theorem rxDeliver_res : (rxDeliver s).res = s.res := rfl
@[simp] theorem rxDeliver_ilen : (rxDeliver s).ilen = s.ilen := rfl
@[simp] theorem rxDeliver_olen : (rxDeliver s).olen = s.olen := rfl
@[simp] theorem rxDeliver_omax : (rxDeliver s).omax = s.omax := rfl
@[simp] theorem rxDeliver_ibuf : (rxDeliver s).ibuf = s.ibuf := rfl
@[simp] theorem rxDeliver_obuf : (rxDeliver s).obuf = s.obuf := rfl
@[simp] theorem rxDeliver_rbuf : (rxDeliver s).rbuf = s.rbuf := rfl
@[simp] theorem rxDeliver_rstate : (rxDeliver s).rstate = .idle := rfl
@[simp] theorem rxDeliver_rlen : (rxDeliver s).rlen = 0 := rfl
@[simp] theorem rxDeliver_expSn : (rxDeliver s).expSn = s.expSn := rfl
@[simp] theorem rxDeliver_frameBin : (rxDeliver s).frameBin = s.frameBin := rfl
@[simp] theorem rxDeliver_msgValid : (rxDeliver s).msgValid = true := rfl
@[simp] theorem rxDeliver_msgLen : (rxDeliver s).msgLen = s.rlen := rfl
@[simp] theorem rxDeliver_msgBin : (rxDeliver s).msgBin = s.frameBin := rfl
@[simp] theorem rxDeliver_cause : (rxDeliver s).cause = s.cause := rfl
@[simp] theorem rxDeliver_disc : (rxDeliver s).disc = s.disc := rfl
@[simp] theorem rxDeliver_pending : (rxDeliver s).pending = s.pending := rfl
@[simp] theorem rxDeliver_response : (rxDeliver s).response = s.response := rfl
@[simp] theorem rxDeliver_served : (rxDeliver s).served = s.served := rfl

end

section

variable (rest : List Txn) (s : State)

@[simp] theorem acceptTxn_cfg : (acceptTxn rest s).cfg = s.cfg := rfl
@[simp] theorem acceptTxn_hash : (acceptTxn rest s).hash = s.hash := rfl
@[simp] theorem acceptTxn_res : (acceptTxn rest s).res = s.res := rfl
@[simp] theorem acceptTxn_ilen : (acceptTxn rest s).ilen = s.ilen := rfl
@[simp] theorem acceptTxn_olen : (acceptTxn rest s).olen = s.olen := rfl
@[simp] theorem acceptTxn_omax : (acceptTxn rest s).omax = s.omax := rfl
@[simp] theorem acceptTxn_ibuf : (acceptTxn rest s).ibuf = s.ibuf := rfl
@[simp] theorem acceptTxn_obuf : (acceptTxn rest s).obuf = s.obuf := rfl
@[simp] theorem acceptTxn_rbuf : (acceptTxn rest s).rbuf = s.rbuf := rfl
@[simp] theorem acceptTxn_rstate : (acceptTxn rest s).rstate = s.rstate := rfl
@[simp] theorem acceptTxn_rlen : (acceptTxn rest s).rlen = s.rlen := rfl
@[simp] theorem acceptTxn_expSn : (acceptTxn rest s).expSn = s.expSn := rfl
@[simp] theorem acceptTxn_frameBin : (acceptTxn rest s).frameBin = s.frameBin := rfl
@[simp] theorem acceptTxn_msgValid : (acceptTxn rest s).msgValid = s.msgValid := rfl
@[simp] theorem acceptTxn_msgLen : (acceptTxn rest s).msgLen = s.msgLen := rfl
@[simp] theorem acceptTxn_msgBin : (acceptTxn rest s).msgBin = s.msgBin := rfl
@[simp] theorem acceptTxn_cause : (acceptTxn rest s).cause = s.cause := rfl
@[simp] theorem acceptTxn_disc : (acceptTxn rest s).disc = s.disc := rfl
@[simp] theorem acceptTxn_pending : (acceptTxn rest s).pending = rest := rfl
@[simp] theorem acceptTxn_response : (acceptTxn rest s).response = none := rfl
@[simp] theorem acceptTxn_served : (acceptTxn rest s).served = s.served + 1 := rfl

end

section

variable (r : Response) (s : State)

@[simp] theorem respond_cfg : (respond r s).cfg = s.cfg := rfl
@[simp] theorem respond_hash : (respond r s).hash = s.hash := rfl
@[simp] theorem respond_res : (respond r s).res = s.res := rfl
@[simp] theorem respond_ilen : (respond r s).ilen = s.ilen := rfl
@[simp] theorem respond_olen : (respond r s).olen = s.olen := rfl
@[simp] theorem respond_omax : (respond r s).omax = s.omax := rfl
@[simp] theorem respond_ibuf : (respond r s).ibuf = s.ibuf := rfl
@[simp] theorem respond_obuf : (respond r s).obuf = s.obuf := rfl
@[simp] theorem respond_rbuf : (respond r s).rbuf = s.rbuf := rfl
@[simp] theorem respond_rstate : (respond r s).rstate = s.rstate := rfl
@[simp] theorem respond_rlen : (respond r s).rlen = s.rlen := rfl
@[simp] theorem respond_expSn : (respond r s).expSn = s.expSn := rfl
@[simp] theorem respond_frameBin : (respond r s).frameBin = s.frameBin := rfl
@[simp] theorem respond_msgValid : (respond r s).msgValid = s.msgValid := rfl
@[simp] theorem respond_msgLen : (respond r s).msgLen = s.msgLen := rfl
@[simp] theorem respond_msgBin : (respond r s).msgBin = s.msgBin := rfl
@[simp] theorem respond_cause : (respond r s).cause = s.cause := rfl
@[simp] theorem respond_disc : (respond r s).disc = s.disc := rfl
@[simp] theorem respond_pending : (respond r s).pending = s.pending := rfl
@[simp] theorem respond_response : (respond r s).response = some r := rfl
@[simp] theorem respond_served : (respond r s).served = s.served := rfl

end

end Sys2Proof.Machine
end

