-- ==== Sys2Proof/Laws/Ops.lean ====
section
/-! SUPPORT. What each shared operation and each meaning can do, said once, so that later proofs cite
these lemmas and unfold nothing. -/

namespace Sys2Proof.Machine

/-! ### The configuration's bounds -/

theorem Cfg.bounds (c : Cfg) :
    1 ≤ c.m ∧ 1 ≤ c.n ∧ c.n ≤ 32 ∧ c.wireMax ≤ c.mtu ∧ c.mtu ≤ c.ibufSize ∧ c.mtu ≤ c.obufSize ∧
      c.ibufSize < 2 ^ 32 ∧ c.obufSize < 2 ^ 32 ∧ c.m < 2 ^ 32 ∧
      c.mtu < 2 ^ 32 := by
  have h := c.wf
  simp only [CfgData.wf, CfgData.fitsWords, Bool.and_eq_true, decide_eq_true_eq] at h
  tauto

/-! ### Operands -/

@[simp] theorem inputString_length (s : State) : (inputString s).length = s.ilen.toNat := by
  simp [inputString]

theorem inputString_getElem? (s : State) (i : Nat) :
    (inputString s)[i]? = if i < s.ilen.toNat then some (inputByte s i) else none := by
  by_cases h : i < s.ilen.toNat <;> simp [inputString, h]

theorem obound_le (s : State) : obound s ≤ s.cfg.obufSize := Nat.min_le_right _ _

theorem lenWord_toNat {n : Nat} (h : n < 2 ^ 32) : (lenWord n).toNat = n := by
  simpa [lenWord] using Nat.mod_eq_of_lt h

theorem lengthRegister_toNat {wide : Nat → Word} {n : Nat} (h : n < 2 ^ 32) :
    (lengthRegister wide n).toNat = n := by
  rw [lengthRegister, if_pos h]
  exact lenWord_toNat h

/-! ### The shared operations -/

theorem withInput_of_le {s onSize : State} {k : List Byte → State}
    (h : s.ilen.toNat ≤ s.cfg.ibufSize) : withInput s onSize k = k (inputString s) := by
  rw [withInput, if_neg (by omega)]

theorem withInput_of_lt {s onSize : State} {k : List Byte → State}
    (h : s.cfg.ibufSize < s.ilen.toNat) : withInput s onSize k = onSize := by
  rw [withInput, if_pos h]

theorem withInput_cases (s onSize : State) (k : List Byte → State) :
    (s.cfg.ibufSize < s.ilen.toNat ∧ withInput s onSize k = onSize) ∨
      (s.ilen.toNat ≤ s.cfg.ibufSize ∧ withInput s onSize k = k (inputString s)) := by
  rcases Nat.lt_or_ge s.cfg.ibufSize s.ilen.toNat with h | h
  · exact .inl ⟨h, withInput_of_lt h⟩
  · exact .inr ⟨h, withInput_of_le h⟩

theorem failedPlain_raise (c : Cause) (s : State) : failedPlain c s (raise c false s) :=
  ⟨rfl, rfl, rfl, rfl⟩

theorem succeededPlain_succeed (r : Word) (s : State) : succeededPlain r s (succeed r false s) :=
  ⟨rfl, rfl, rfl, rfl⟩

theorem failedProducing_raiseProducing (c : Cause) (s : State) :
    failedProducing c s (raiseProducing c s) :=
  ⟨rfl, rfl, rfl, rfl,
    fun i hi => by simp [Memory.readByte_forgetBelow, hi],
    fun i hi => by simp [Memory.readByte_forgetBelow, Nat.not_lt.mpr hi], rfl⟩

theorem producedOutput_produce {out : List Byte} {r : Word} {s : State}
    (h : out.length ≤ obound s) : producedOutput out r s (produce out r s) := by
  have hlen : out.length < 2 ^ 32 :=
    Nat.lt_of_le_of_lt (Nat.le_trans h (obound_le s)) (Cfg.bounds s.cfg).2.2.2.2.2.2.2.1
  refine ⟨rfl, rfl, rfl, lenWord_toNat hlen, fun i hi => ?_, fun i hi hb => ?_, fun i hi => ?_, rfl⟩
  · rw [produce_obuf, Memory.readByte_writeBytes, if_pos (by omega), Nat.sub_zero]
  · rw [produce_obuf, Memory.readByte_writeBytes, if_neg (by omega), Memory.readByte_forgetBelow,
      if_pos hb]
  · rw [produce_obuf, Memory.readByte_writeBytes, if_neg (by omega), Memory.readByte_forgetBelow,
      if_neg (by omega)]

theorem produceBounded_cases (out : List Byte) (r : Word) (s : State) :
    (obound s < out.length ∧ produceBounded out r s = raiseProducing .size s) ∨
      (out.length ≤ obound s ∧ produceBounded out r s = produce out r s) := by
  rcases Nat.lt_or_ge (obound s) out.length with h | h
  · exact .inl ⟨h, if_pos h⟩
  · exact .inr ⟨h, if_neg (by omega)⟩

/-! ### The receive path -/

theorem rxComplete_cases (last d : Bool) (s : State) :
    (last = true ∧ rxComplete last d s = succeed 2#32 d (rxDeliver s)) ∨
      (last = false ∧ rxComplete last d s = succeed 1#32 d s) := by
  cases last
  · exact .inr ⟨rfl, rfl⟩
  · exact .inl ⟨rfl, rfl⟩

theorem rxFirst_cases (h : Header) (p : List Byte) (s : State) :
    (h.sn ≠ 0#5 ∧ rxFirst h p s = raise .seqFirst (accumulating s) (rxDiscard s)) ∨
      (h.sn = 0#5 ∧ s.cfg.maxf < p.length ∧
        rxFirst h p s = raise .overflow (accumulating s) (rxDiscard s)) ∨
      (h.sn = 0#5 ∧ p.length ≤ s.cfg.maxf ∧
        rxFirst h p s =
          rxComplete h.last (accumulating s) (rxOpen h.binary p (rxDiscard s))) := by
  unfold rxFirst
  split
  · next h0 => exact .inl ⟨h0, rfl⟩
  · next h0 =>
    have h0' : h.sn = 0#5 := Decidable.not_not.mp h0
    split
    · next hl => exact .inr (.inl ⟨h0', hl, rfl⟩)
    · next hl => exact .inr (.inr ⟨h0', by omega, rfl⟩)

theorem rxNext_cases (h : Header) (p : List Byte) (s : State) :
    (s.rstate = .idle ∧ rxNext h p s = raise .seqNoFrame false s) ∨
      (s.rstate = .acc ∧ h.sn ≠ s.expSn ∧ rxNext h p s = rxFail .seqGap s) ∨
      (s.rstate = .acc ∧ h.sn = s.expSn ∧ s.cfg.maxf < s.rlen + p.length ∧
        rxNext h p s = rxFail .overflow s) ∨
      (s.rstate = .acc ∧ h.sn = s.expSn ∧ s.rlen + p.length ≤ s.cfg.maxf ∧
        rxNext h p s = rxComplete h.last false (rxAppend h.binary p s)) := by
  unfold rxNext
  split
  · next hi => exact .inl ⟨hi, rfl⟩
  · next hi =>
    have hacc : s.rstate = .acc := by cases hr : s.rstate <;> simp_all
    split
    · next hsn => exact .inr (.inl ⟨hacc, hsn, rfl⟩)
    · next hsn =>
      have hsn' : h.sn = s.expSn := Decidable.not_not.mp hsn
      split
      · next hl => exact .inr (.inr (.inl ⟨hacc, hsn', hl, rfl⟩))
      · next hl => exact .inr (.inr (.inr ⟨hacc, hsn', by omega, rfl⟩))

/-- Every way a chunk past the size precondition can end (44_frame_rx.md R203). -/
theorem rxChunk_cases (w : List Byte) (s : State) :
    (rxBlock s.cfg.toCfgData w = none ∧ rxChunk w s = rxFail .decode (rxClearMessage s)) ∨
      ∃ blk, rxBlock s.cfg.toCfgData w = some blk ∧
        ((validate s.cfg.tagw blk = false ∧ rxChunk w s = rxFail .integrity (rxClearMessage s)) ∨
          (validate s.cfg.tagw blk = true ∧
            rxChunk w s = rxAccept blk (rxClearMessage s))) := by
  unfold rxChunk
  split
  · next hb => exact .inl ⟨hb, rfl⟩
  · next blk hb =>
    refine .inr ⟨blk, hb, ?_⟩
    split
    · next hv => exact .inr ⟨hv, rfl⟩
    · next hv => exact .inl ⟨by simpa using hv, rfl⟩

theorem execChunkRx_cases (s : State) :
    ((s.cfg.ibufSize < s.ilen.toNat ∨ s.cfg.mtu < s.ilen.toNat) ∧
        execChunkRx s = .next (raise .size false s)) ∨
      (s.ilen.toNat ≤ s.cfg.mtu ∧ execChunkRx s = .next (rxChunk (inputString s) s)) := by
  have hb := (Cfg.bounds s.cfg).2.2.2.2.1
  unfold execChunkRx
  rcases Nat.lt_or_ge s.cfg.ibufSize s.ilen.toNat with h | h
  · exact .inl ⟨.inl h, by rw [withInput_of_lt h]⟩
  · rw [withInput_of_le h, inputString_length]
    rcases Nat.lt_or_ge s.cfg.mtu s.ilen.toNat with h' | h'
    · exact .inl ⟨.inr h', by rw [if_pos h']⟩
    · exact .inr ⟨h', by rw [if_neg (by omega)]⟩

/-! ### Commands and transactions -/

/-- The state a command leaves: no command stops (45_system.md R231). -/
theorem exec_next (i : Instr) (s : State) : ∃ t, exec i s = .next t := by
  cases i <;> exact ⟨_, rfl⟩

theorem inBuffer_next {sp : Space} {size i : Nat} {s t : State}
    (h : inBuffer sp size i s = .next t) : i < size ∧ t = s := by
  unfold inBuffer at h
  split at h
  · next hi => cases h; exact ⟨hi, rfl⟩
  · cases h

theorem inBuffer_of_lt {sp : Space} {size i : Nat} {s : State} (h : i < size) :
    inBuffer sp size i s = .next s := if_pos h

/-- Every way a transaction can answer a next state. -/
theorem performTxn_next {x : Txn} {s t : State} (h : performTxn x s = .next t) :
    (∃ r, t = respond r s) ∨ t = s ∨ (∃ w, t = { s with hash := w }) ∨
      (∃ w, t = { s with ilen := w }) ∨ (∃ w, t = { s with omax := w }) ∨
      (∃ i b, i < s.cfg.ibufSize ∧ t = { s with ibuf := s.ibuf.writeByte i b }) ∨
      t = illegalCommand s ∨ ∃ i, exec i s = .next t := by
  cases x with
  | csrRead i =>
    simp only [performTxn] at h
    split at h
    · cases h; exact .inl ⟨_, rfl⟩
    · cases h
  | csrWrite i w =>
    simp only [performTxn] at h
    split at h
    · next r _ =>
      cases r with
      | cmd =>
        simp only [csrWriteEffect, issueCommand] at h
        split at h
        · next j _ => exact .inr (.inr (.inr (.inr (.inr (.inr (.inr ⟨j, h⟩))))))
        · cases h; exact .inr (.inr (.inr (.inr (.inr (.inr (.inl rfl))))))
      | hash => cases h; exact .inr (.inr (.inl ⟨w, rfl⟩))
      | ilen => cases h; exact .inr (.inr (.inr (.inl ⟨w, rfl⟩)))
      | omax => cases h; exact .inr (.inr (.inr (.inr (.inl ⟨w, rfl⟩))))
      | _ => cases h; exact .inr (.inl rfl)
    · cases h
  | ibufWrite i b =>
    obtain ⟨hi, rfl⟩ := inBuffer_next h
    exact .inr (.inr (.inr (.inr (.inr (.inl ⟨i, b, hi, rfl⟩)))))
  | ibufRead i => exact .inl ⟨_, (inBuffer_next h).2⟩
  | obufRead i => exact .inl ⟨_, (inBuffer_next h).2⟩
  | obufWrite i b => exact .inr (.inl (inBuffer_next h).2)
  | rbufRead i => exact .inl ⟨_, (inBuffer_next h).2⟩

/-- What the receive path reads and writes, but for its input: the same in both states. -/
def sameReception (s t : State) : Prop :=
  t.cfg = s.cfg ∧ t.rbuf = s.rbuf ∧ t.rstate = s.rstate ∧ t.rlen = s.rlen ∧ t.expSn = s.expSn ∧
    t.frameBin = s.frameBin ∧ t.msgValid = s.msgValid ∧ t.msgLen = s.msgLen ∧ t.msgBin = s.msgBin

theorem sameReception.trans {s t u : State} (h : sameReception s t) (h' : sameReception t u) :
    sameReception s u := by
  simp_all [sameReception]

/-- What the reception of a chunk depends on, its input among it: the same in both states. -/
def sameForChunk (s t : State) : Prop :=
  sameReception s t ∧ t.ibuf = s.ibuf ∧ t.ilen = s.ilen

theorem raise_sameForChunk (c : Cause) (d : Bool) (s : State) : sameForChunk s (raise c d s) :=
  ⟨⟨rfl, rfl, rfl, rfl, rfl, rfl, rfl, rfl, rfl⟩, rfl, rfl⟩

theorem raiseProducing_sameForChunk (c : Cause) (s : State) :
    sameForChunk s (raiseProducing c s) :=
  ⟨⟨rfl, rfl, rfl, rfl, rfl, rfl, rfl, rfl, rfl⟩, rfl, rfl⟩

theorem succeed_sameForChunk (r : Word) (d : Bool) (s : State) :
    sameForChunk s (succeed r d s) :=
  ⟨⟨rfl, rfl, rfl, rfl, rfl, rfl, rfl, rfl, rfl⟩, rfl, rfl⟩

theorem withInput_sameForChunk {s e : State} {k : List Byte → State} (he : sameForChunk s e)
    (hk : ∀ p, sameForChunk s (k p)) : sameForChunk s (withInput s e k) := by
  rcases withInput_cases s e k with ⟨_, h⟩ | ⟨_, h⟩ <;> rw [h]
  exacts [he, hk _]

theorem produceBounded_sameForChunk (out : List Byte) (r : Word) (s : State) :
    sameForChunk s (produceBounded out r s) := by
  rcases produceBounded_cases out r s with ⟨_, h⟩ | ⟨_, h⟩ <;> rw [h] <;>
    simp [sameForChunk, sameReception]

theorem setHash_sameForChunk (h : Word) (s : State) : sameForChunk s (setHash h s) :=
  ⟨⟨rfl, rfl, rfl, rfl, rfl, rfl, rfl, rfl, rfl⟩, rfl, rfl⟩

/-- A command that is neither `CHUNK_RX` nor `SRESET` leaves alone what a chunk's reception
depends on (10_state.md R37). -/
theorem exec_sameForChunk {i : Instr} {s t : State} (h : exec i s = .next t) (hr : i ≠ .chunkRx)
    (hs : i ≠ .sreset) : sameForChunk s t := by
  have hbounded := fun out r => produceBounded_sameForChunk out r s
  cases i with
  | chunkRx => exact absurd rfl hr
  | sreset => exact absurd rfl hs
  | chunkTx sn first last =>
    injection h with h
    rw [← h]
    refine withInput_sameForChunk (raiseProducing_sameForChunk _ _) fun p => ?_
    split
    · exact raiseProducing_sameForChunk _ _
    · exact hbounded _ _
  | b64Dec =>
    injection h with h
    rw [← h]
    refine withInput_sameForChunk (raiseProducing_sameForChunk _ _) fun p => ?_
    cases base64Decode p with
    | none => exact raiseProducing_sameForChunk _ _
    | some out => exact hbounded _ _
  | cksCopy =>
    injection h with h
    rw [← h]
    exact withInput_sameForChunk (raiseProducing_sameForChunk _ _) fun p => hbounded _ _
  | b64Enc =>
    injection h with h
    rw [← h]
    exact withInput_sameForChunk (raiseProducing_sameForChunk _ _) fun p => hbounded _ _
  | fnvInit | fnvUpdate b =>
    injection h with h
    rw [← h]
    exact setHash_sameForChunk _ _
  | fnvBlock =>
    injection h with h
    rw [← h]
    exact withInput_sameForChunk (raise_sameForChunk _ _ _) fun p => setHash_sameForChunk _ _
  | cksValidate | binDetect =>
    injection h with h
    rw [← h]
    exact withInput_sameForChunk (raise_sameForChunk _ _ _) fun p => succeed_sameForChunk _ _ _
  | _ =>
    injection h with h
    rw [← h]
    exact succeed_sameForChunk _ _ _

/-- Every way a step can answer a next state: nothing to do, or one transaction. -/
theorem step_next {s t : State} (h : step s = .next t) :
    (s.pending = [] ∧ t = s) ∨
      ∃ x rest, s.pending = x :: rest ∧ performTxn x (acceptTxn rest s) = .next t := by
  unfold step at h
  split at h
  · next hp => cases h; exact .inl ⟨hp, rfl⟩
  · next x rest hp => exact .inr ⟨x, rest, hp, h⟩

end Sys2Proof.Machine
end

