-- ==== Sys2Proof/Laws/PerInstr.lean ====
section
/-! SUPPORT. A law of the encoding stated for every command, one lemma each: bits 31:19 of the command
word "must be 0" (30_encoding.md R80). -/

namespace Sys2Proof.Laws

/-- Bits 31:19 of the encoded command are 0 (30_encoding.md R80). -/
def HighBitsZero.Statement (i : Instr) : Prop := (encode i).extractLsb' 19 13 = 0#13

theorem assemble_high_bits (op a : Byte) (fb ff fl : Bool) :
    (assemble op a fb ff fl).extractLsb' 19 13 = 0#13 := by
  apply BitVec.eq_of_getLsbD_eq
  intro j hj
  simp only [assemble, BitVec.getLsbD_extractLsb', BitVec.getLsbD_append, BitVec.getLsbD_zero, hj,
    decide_true, Bool.true_and]
  rw [if_neg (by omega), if_neg (by omega), if_neg (by omega), if_neg (by omega),
    if_neg (by omega)]

theorem HighBitsZero.sreset : HighBitsZero.Statement .sreset := assemble_high_bits ..

theorem HighBitsZero.fnvInit : HighBitsZero.Statement .fnvInit := assemble_high_bits ..

theorem HighBitsZero.fnvUpdate (b : Byte) : HighBitsZero.Statement (.fnvUpdate b) :=
  assemble_high_bits ..

theorem HighBitsZero.fnvBlock : HighBitsZero.Statement .fnvBlock := assemble_high_bits ..

theorem HighBitsZero.cksCopy : HighBitsZero.Statement .cksCopy := assemble_high_bits ..

theorem HighBitsZero.cksValidate : HighBitsZero.Statement .cksValidate := assemble_high_bits ..

theorem HighBitsZero.hdrPack (sn : Nat) (bin first last : Bool) :
    HighBitsZero.Statement (.hdrPack sn bin first last) := assemble_high_bits ..

theorem HighBitsZero.hdrUnpack (h : Byte) : HighBitsZero.Statement (.hdrUnpack h) :=
  assemble_high_bits ..

theorem HighBitsZero.binDetect : HighBitsZero.Statement .binDetect := assemble_high_bits ..

theorem HighBitsZero.b64Enc : HighBitsZero.Statement .b64Enc := assemble_high_bits ..

theorem HighBitsZero.b64Dec : HighBitsZero.Statement .b64Dec := assemble_high_bits ..

theorem HighBitsZero.chunkTx (sn : Nat) (first last : Bool) :
    HighBitsZero.Statement (.chunkTx sn first last) := assemble_high_bits ..

theorem HighBitsZero.chunkRx : HighBitsZero.Statement .chunkRx := assemble_high_bits ..

end Sys2Proof.Laws
end

