-- ==== Sys2Proof/Laws/Script.lean ====
section
/-! SUPPORT. What running a list of transactions does: it composes, filling IBUF makes the input string
what was written, what the host interleaves leaves the receive path alone, and a run that
reads OBUF returns its output. -/

namespace Sys2Proof.Machine

theorem serve_append {ts us : List Txn} {s t : State} (h : serve ts s = .next t) :
    serve (ts ++ us) s = serve us t := by
  induction ts generalizing s with
  | nil => cases h; rfl
  | cons x ts ih =>
    simp only [serve, List.cons_append] at h ⊢
    cases hx : step { s with pending := x :: s.pending } with
    | next s' => rw [hx] at h; exact ih h
    | fault r => rw [hx] at h; cases h
    | refused r => rw [hx] at h; cases h

theorem serve_cons {x : Txn} {ts : List Txn} {s t : State}
    (h : performTxn x (acceptTxn s.pending s) = .next t) : serve (x :: ts) s = serve ts t := by
  have : step { s with pending := x :: s.pending } = .next t := h
  simp only [serve, this]

/-- Both states are the same but for what writing IBUF and `ILEN` changes. -/
def sameButInput (s t : State) : Prop :=
  { t with ibuf := s.ibuf, ilen := s.ilen, response := s.response, served := s.served } = s

theorem serve_ibufWrites {w : List Byte} {i : Nat} {s : State}
    (h : i + w.length ≤ s.cfg.ibufSize) :
    ∃ t, serve (ibufWrites i w) s = .next t ∧ t.ibuf = s.ibuf.writeBytes i w ∧
      sameButInput s t := by
  induction w generalizing i s with
  | nil => exact ⟨s, rfl, rfl, rfl⟩
  | cons b bs ih =>
    simp only [List.length_cons] at h
    have hp : performTxn (.ibufWrite i b) (acceptTxn s.pending s) =
        .next { acceptTxn s.pending s with ibuf := s.ibuf.writeByte i b } :=
      inBuffer_of_lt (show i < s.cfg.ibufSize by omega)
    obtain ⟨t, ht, hm, hf⟩ := ih (i := i + 1)
      (s := { acceptTxn s.pending s with ibuf := s.ibuf.writeByte i b })
      (show i + 1 + bs.length ≤ s.cfg.ibufSize by omega)
    refine ⟨t, by rw [ibufWrites, serve_cons hp]; exact ht, hm, ?_⟩
    have h1 := congrArg
      (fun u => State.mk u.cfg u.hash u.res s.ilen u.olen u.omax s.ibuf u.obuf u.rbuf u.rstate
        u.rlen u.expSn u.frameBin u.msgValid u.msgLen u.msgBin u.cause u.disc u.pending
        s.response s.served) hf
    exact h1

theorem serve_ibufScript {w : List Byte} {s : State} (h : w.length ≤ s.cfg.ibufSize) :
    ∃ t, serve (ibufScript w) s = .next t ∧ inputString t = w ∧ t.ilen = lenWord w.length ∧
      sameButInput s t := by
  obtain ⟨t, ht, hm, hf⟩ := serve_ibufWrites (i := 0) (w := w) (s := s) (by omega)
  have hlen : w.length < 2 ^ 32 :=
    Nat.lt_of_le_of_lt h (Cfg.bounds s.cfg).2.2.2.2.2.2.1
  refine ⟨{ acceptTxn t.pending t with ilen := lenWord w.length }, ?_, ?_, rfl, ?_⟩
  · rw [ibufScript, serve_append ht]
    exact serve_cons rfl
  · apply List.ext_getElem?
    intro i
    rw [inputString_getElem?]
    simp only [lenWord_toNat hlen, inputByte, acceptTxn_ibuf, hm, Memory.readByte_writeBytes]
    by_cases hi : i < w.length
    · simp [hi]
    · simp [hi]
  · have h1 := congrArg
      (fun u => State.mk u.cfg u.hash u.res s.ilen u.olen u.omax s.ibuf u.obuf u.rbuf u.rstate
        u.rlen u.expSn u.frameBin u.msgValid u.msgLen u.msgBin u.cause u.disc u.pending
        s.response s.served) hf
    exact h1

/-- A bystander runs and leaves the receive path alone, and its input too unless the bystander
writes it (44_frame_rx.md R216). -/
theorem performTxn_bystander {x : Txn} {s : State} (h : isBystander s.cfg.toCfgData x = true) :
    ∃ t, performTxn x s = .next t ∧ sameReception s t ∧
      (keepsInput x = true → t.ibuf = s.ibuf ∧ t.ilen = s.ilen) := by
  cases x with
  | csrRead i =>
    have hi : i < 17 := of_decide_eq_true h
    obtain ⟨r, hr⟩ : ∃ r, csrOfIndex i = some r := by interval_cases i <;> exact ⟨_, rfl⟩
    exact ⟨respond (.word (csrValue s r)) s, by simp only [performTxn, hr],
      by simp [sameReception, respond], fun _ => ⟨rfl, rfl⟩⟩
  | csrWrite i w =>
    simp only [isBystander, Bool.and_eq_true, decide_eq_true_eq] at h
    obtain ⟨hi, hw⟩ := h
    by_cases h0 : i = 0
    · subst h0
      cases hd : decodeWord w with
      | error e =>
        exact ⟨illegalCommand s, by
          simp only [performTxn, csrOfIndex, csrWriteEffect, issueCommand, hd],
          ⟨rfl, rfl, rfl, rfl, rfl, rfl, rfl, rfl, rfl⟩, fun _ => ⟨rfl, rfl⟩⟩
      | ok j =>
        obtain ⟨t, ht⟩ := exec_next j s
        obtain ⟨hr, hi, hl⟩ := exec_sameForChunk ht
          (fun hc => by simp [hd, hc, Except.toOption] at hw)
          (fun hc => by simp [hd, hc, Except.toOption] at hw)
        exact ⟨t, by simp only [performTxn, csrOfIndex, csrWriteEffect, issueCommand, hd, ht], hr,
          fun _ => ⟨hi, hl⟩⟩
    · obtain ⟨r, hr, hc, hl⟩ : ∃ r, csrOfIndex i = some r ∧ r ≠ .cmd ∧ (i ≠ 5 → r ≠ .ilen) := by
        interval_cases i <;> simp_all [csrOfIndex]
      have hp : performTxn (.csrWrite i w) s = csrWriteEffect r w s := by simp only [performTxn, hr]
      have hk : keepsInput (.csrWrite i w) = true → r ≠ .ilen :=
        fun h => hl (by simpa [keepsInput] using h)
      rw [hp]
      cases r with
      | cmd => exact absurd rfl hc
      | ilen =>
        exact ⟨_, rfl, ⟨rfl, rfl, rfl, rfl, rfl, rfl, rfl, rfl, rfl⟩, fun h => absurd rfl (hk h)⟩
      | _ => exact ⟨_, rfl, ⟨rfl, rfl, rfl, rfl, rfl, rfl, rfl, rfl, rfl⟩, fun _ => ⟨rfl, rfl⟩⟩
  | ibufWrite i b =>
    exact ⟨_, inBuffer_of_lt (of_decide_eq_true h), by simp [sameReception], fun hk => by cases hk⟩
  | ibufRead i =>
    exact ⟨_, inBuffer_of_lt (of_decide_eq_true h), by simp [sameReception, respond],
      fun _ => ⟨rfl, rfl⟩⟩
  | obufRead i =>
    exact ⟨_, inBuffer_of_lt (of_decide_eq_true h), by simp [sameReception, respond],
      fun _ => ⟨rfl, rfl⟩⟩
  | obufWrite i b =>
    exact ⟨_, inBuffer_of_lt (of_decide_eq_true h), by simp [sameReception], fun _ => ⟨rfl, rfl⟩⟩
  | rbufRead i =>
    exact ⟨_, inBuffer_of_lt (of_decide_eq_true h), by simp [sameReception, respond],
      fun _ => ⟨rfl, rfl⟩⟩

/-- Any bystanders run one after another and leave the receive path alone, and its input too unless
one writes it (44_frame_rx.md R216). -/
theorem serve_bystanders {ts : List Txn} {s : State}
    (h : ∀ x ∈ ts, isBystander s.cfg.toCfgData x = true) :
    ∃ t, serve ts s = .next t ∧ sameReception s t ∧
      ((∀ x ∈ ts, keepsInput x = true) → t.ibuf = s.ibuf ∧ t.ilen = s.ilen) := by
  induction ts generalizing s with
  | nil => exact ⟨s, rfl, ⟨rfl, rfl, rfl, rfl, rfl, rfl, rfl, rfl, rfl⟩, fun _ => ⟨rfl, rfl⟩⟩
  | cons x ts ih =>
    have hx : isBystander (acceptTxn s.pending s).cfg.toCfgData x = true := h x (.head _)
    obtain ⟨t, ht, hr, hk⟩ := performTxn_bystander hx
    have hrt : sameReception s t := hr
    obtain ⟨u, hu, hr', hk'⟩ := ih (s := t) fun y hy => by
      rw [hrt.1]; exact h y (.tail _ hy)
    refine ⟨u, by rw [serve_cons ht]; exact hu, hrt.trans hr', fun hall => ?_⟩
    obtain ⟨h1, h2⟩ := hk (hall x (.head _))
    obtain ⟨h3, h4⟩ := hk' fun y hy => hall y (.tail _ hy)
    exact ⟨h3.trans h1, h4.trans h2⟩

/-- One turn of the receiving host is `CHUNK_RX` on its chunk, at a state whose receive path is the
one before it (44_frame_rx.md R216). -/
theorem serve_round {r : Round} {s : State} (h : r.allowed s.cfg.toCfgData)
    (hw : r.chunk.length ≤ s.cfg.ibufSize) :
    ∃ t, serve r.txns s = exec .chunkRx t ∧ inputString t = r.chunk ∧ sameReception s t := by
  obtain ⟨t, ht, hr, -⟩ := serve_bystanders h.1
  obtain ⟨u, hu, hin, -, hf⟩ := serve_ibufScript (w := r.chunk) (s := t) (by rw [hr.1]; exact hw)
  have hru : sameReception t u := by
    rw [← hf]; exact ⟨rfl, rfl, rfl, rfl, rfl, rfl, rfl, rfl, rfl⟩
  obtain ⟨v, hv, hrv, hkv⟩ := serve_bystanders (ts := r.between) (s := u) fun x hx => by
    rw [hru.1, hr.1]; exact (h.2 x hx).1
  obtain ⟨hib, hil⟩ := hkv fun x hx => (h.2 x hx).2
  refine ⟨acceptTxn v.pending v, ?_, ?_, (hr.trans hru).trans hrv⟩
  · rw [Round.txns, serve_append ht, serve_append hu, serve_append hv]
    obtain ⟨x, hx⟩ := exec_next .chunkRx (acceptTxn v.pending v)
    rw [hx]
    exact serve_cons hx
  · have hbyte : inputByte (acceptTxn v.pending v) = inputByte u :=
      funext fun i => by simp only [inputByte, acceptTxn_ibuf, hib]
    simp only [← hin, inputString, hbyte, acceptTxn_ilen, hil]
/-! ### Runs that read -/

@[simp] theorem andThen_next {α β : Type} (a : α) (k : α → Host.Outcome β Fault Refusal) :
    andThen (.next a) k = k a := rfl

/-- Both states are the same but for what a host read changes. -/
def sameButReads (s t : State) : Prop :=
  { t with response := s.response, served := s.served } = s

theorem sameButReads.trans {s t u : State} (h : sameButReads s t) (h' : sameButReads t u) :
    sameButReads s u := by
  have h1 := congrArg
    (fun v => State.mk v.cfg v.hash v.res v.ilen v.olen v.omax v.ibuf v.obuf v.rbuf v.rstate v.rlen
      v.expSn v.frameBin v.msgValid v.msgLen v.msgBin v.cause v.disc v.pending s.response
      s.served) h'
  exact h1.trans h

theorem sameButReads.cfg {s t : State} (h : sameButReads s t) : t.cfg = s.cfg := by
  have h' := congrArg State.cfg h
  exact h'

theorem sameButReads.obuf {s t : State} (h : sameButReads s t) : t.obuf = s.obuf := by
  have h' := congrArg State.obuf h
  exact h'

theorem serve_csrRead {i : Nat} {r : Csr} (h : csrOfIndex i = some r) (s : State) :
    ∃ t, serve [.csrRead i] s = .next t ∧ returnedWord t = csrValue s r ∧ sameButReads s t :=
  ⟨respond (.word (csrValue (acceptTxn s.pending s) r)) (acceptTxn s.pending s),
    serve_cons (by simp only [performTxn, h]), by cases r <;> rfl, rfl⟩

/-- Reading OBUF bytes that hold a string returns the string and changes nothing else
(10_state.md R27). -/
theorem readBytes_obuf {out : List Byte} {start : Nat} {s : State}
    (hsize : start + out.length ≤ s.cfg.obufSize)
    (hout : ∀ j < out.length, s.obuf.readByte (start + j) = out[j]?) :
    ∃ t, readBytes ((List.range' start out.length).map .obufRead) s = .next (t, out) ∧
      sameButReads s t := by
  induction out generalizing start s with
  | nil => exact ⟨s, rfl, rfl⟩
  | cons b bs ih =>
    simp only [List.length_cons] at hsize hout
    have hb : s.obuf.readByte start = some b := by simpa using hout 0 (by omega)
    obtain ⟨t, ht, hf⟩ : ∃ t, serve [.obufRead start] s = .next t ∧
        returnedByte t = b ∧ sameButReads s t :=
      ⟨_, serve_cons (inBuffer_of_lt (show start < s.cfg.obufSize by omega)),
        by simp [returnedByte, respond, obufReadValue, hb], rfl⟩
    have hcfg := hf.2.cfg
    have hobuf := hf.2.obuf
    obtain ⟨u, hu, hfu⟩ := ih (start := start + 1) (s := t) (by rw [hcfg]; omega) fun j hj => by
      have := hout (j + 1) (by omega)
      rw [hobuf, show start + 1 + j = start + (j + 1) by omega]
      simpa using this
    refine ⟨u, ?_, hf.2.trans hfu⟩
    simp only [List.length_cons, List.range'_succ, List.map_cons, readBytes, ht, andThen_next, hu,
      hf.1]

/-- `obuf` returns the output string and changes nothing else (30_encoding.md R88). -/
theorem readOutput_next {out : List Byte} {s : State} (hlen : s.olen.toNat = out.length)
    (hsize : out.length ≤ s.cfg.obufSize) (hout : ∀ j < out.length, s.obuf.readByte j = out[j]?) :
    ∃ t, readOutput s = .next (t, out) ∧ sameButReads s t := by
  obtain ⟨t, ht, hw, hf⟩ := serve_csrRead (i := 6) (r := .olen) rfl s
  have hcfg := hf.cfg
  have hobuf := hf.obuf
  obtain ⟨u, hu, hfu⟩ := readBytes_obuf (out := out) (start := 0) (s := t)
    (by rw [hcfg]; omega) fun j hj => by rw [hobuf, Nat.zero_add]; exact hout j hj
  refine ⟨u, ?_, hf.trans hfu⟩
  have hn : (returnedWord t).toNat = out.length := by rw [hw]; exact hlen
  rw [readOutput, ht, andThen_next, hn, List.range_eq_range']
  exact hu

end Sys2Proof.Machine
end

