-- ==== Sys2Proof/Tests/Slice0.lean ====
section
/-! SUPPORT. The model's own tests. Expected values are those of 95_test_vectors.md (the vector is
named) or of the command rules; the witnesses at the end meet the hypotheses of the statements. -/

namespace Sys2Proof.Tests

open Sys2Proof.Machine

/-! ### Helpers -/

/-- The reset state (EX1) with an input string in IBUF. -/
def loaded (w : List Byte) : State :=
  { State.reset with ibuf := Memory.writeBytes [] 0 w, ilen := lenWord w.length }

/-- The state after a command, when it answers a next state; the reset state otherwise. -/
def after (i : Instr) (s : State) : State :=
  match exec i s with
  | .next t => t
  | .fault _ => State.reset
  | .refused _ => State.reset

/-- The state after one step, when it answers a next state; the reset state otherwise. -/
def afterStep (s : State) : State :=
  match step s with
  | .next t => t
  | .fault _ => State.reset
  | .refused _ => State.reset

/-- The output string a state shows. -/
def output (s : State) : List (Option Byte) :=
  (List.range s.olen.toNat).map (Memory.readByte s.obuf)

/-- A state with an open frame of five bytes (S7 chunk 0). -/
def opened (w : List Byte) : State :=
  { loaded w with
    rbuf := Memory.writeBytes [] 0 [0x41#8, 0x42#8, 0x43#8, 0x44#8, 0x45#8]
    rstate := .acc, rlen := 5, expSn := 1#5 }

/-- Configuration EX2 (95_test_vectors.md section 0): `TAGW = 4`. -/
def ex2 : Cfg := { Cfg.ex1 with tagw := .four, wf := by decide }

/-- The first chunk of S6 and S7 chunk 0. -/
def chunkHello : List Byte :=
  [0x40#8, 0x48#8, 0x65#8, 0x6C#8, 0x6C#8, 0x6F#8, 0x05#8, 0x65#8, 0x0F#8]

/-- S7 chunk 1 (`sn = 1`, payload `FGHIJ`). -/
def chunkOne : List Byte :=
  [0x01#8, 0x46#8, 0x47#8, 0x48#8, 0x49#8, 0x4A#8, 0x3E#8, 0x21#8, 0x0D#8]

/-- S7 chunk 3 (`sn = 3`, last, payload `PQRST`). -/
def chunkThree : List Byte :=
  [0x83#8, 0x50#8, 0x51#8, 0x52#8, 0x53#8, 0x54#8, 0x22#8, 0xDE#8, 0x1D#8]

/-- S8 frame B chunk 1 (`sn = 1`, last, payload `BB`). -/
def chunkLast : List Byte := [0x81#8, 0x42#8, 0x42#8, 0x18#8, 0xC6#8, 0x30#8]

/-- T-RX 1: the empty message (`sn = 0`, first and last). -/
def chunkEmpty : List Byte := [0xC0#8, 0xDF#8, 0x2E#8, 0x4E#8]

/-- T-RX 5: a valid first chunk with `sn = 3`. -/
def chunkFirstThree : List Byte := [0x43#8, 0x78#8, 0x79#8, 0xC5#8, 0x2B#8, 0x8E#8]

/-! ### Well-formedness: the check refuses what does not fit the field `A` -/

theorem test_wf_refuses_hdrPack_256 : (Instr.hdrPack 256 false false false).wf = false := by decide

theorem test_wf_refuses_chunkTx_256 : (Instr.chunkTx 256 true true).wf = false := by decide

/-- U1: a configuration with `N = 40` is refused. -/
theorem test_wf_refuses_forty_chunks : ({ Cfg.ex1.toCfgData with n := 40 } : CfgData).wf = false := by
  decide

/-! ### Decoding: words written out from the encodings of the spec -/

theorem test_decode_sreset : decodeWord 0x00000001#32 = .ok .sreset := by decide

theorem test_decode_fnvInit : decodeWord 0x00000010#32 = .ok .fnvInit := by decide

theorem test_decode_fnvUpdate : decodeWord 0x00006111#32 = .ok (.fnvUpdate 0x61#8) := by decide

theorem test_decode_fnvBlock : decodeWord 0x00000012#32 = .ok .fnvBlock := by decide

theorem test_decode_cksCopy : decodeWord 0x00000013#32 = .ok .cksCopy := by decide

theorem test_decode_cksValidate : decodeWord 0x00000014#32 = .ok .cksValidate := by decide

/-- T-ILL 12. -/
theorem test_decode_hdrPack : decodeWord 0x0007FF20#32 = .ok (.hdrPack 255 true true true) := by
  decide

theorem test_decode_hdrUnpack : decodeWord 0x0000C021#32 = .ok (.hdrUnpack 0xC0#8) := by decide

theorem test_decode_binDetect : decodeWord 0x00000030#32 = .ok .binDetect := by decide

theorem test_decode_b64Enc : decodeWord 0x00000031#32 = .ok .b64Enc := by decide

theorem test_decode_b64Dec : decodeWord 0x00000032#32 = .ok .b64Dec := by decide

/-- T-TX 13. -/
theorem test_decode_chunkTx : decodeWord 0x00040140#32 = .ok (.chunkTx 1 false true) := by decide

theorem test_decode_chunkRx : decodeWord 0x00000041#32 = .ok .chunkRx := by decide

/-- T-ILL 1, 4, 5, 6, 7, 8, 9. -/
theorem test_decode_illegal :
    decodeWord 0x00000000#32 = .error .unknownOpcode ∧
    decodeWord 0x00000110#32 = .error (.nonzeroField "FNV_INIT") ∧
    decodeWord 0x00010011#32 = .error (.nonzeroField "FNV_UPDATE") ∧
    decodeWord 0x00010040#32 = .error (.nonzeroField "CHUNK_TX") ∧
    decodeWord 0x00080020#32 = .error (.nonzeroField "HDR_PACK") ∧
    decodeWord 0x80000041#32 = .error (.nonzeroField "CHUNK_RX") ∧
    decodeWord 0x00000141#32 = .error (.nonzeroField "CHUNK_RX") := by decide

theorem test_decodeTableWord_short : decodeTableWord 8 0x41 = some .chunkRx := by decide

/-! ### Commands -/

/-- 45_system.md R230: an open frame is dropped without `DISC`. -/
theorem test_sreset_drops_frame :
    (after .sreset (opened [])).rstate = .idle ∧ (after .sreset (opened [])).disc = false := by
  decide

theorem test_fnvInit :
    (after .fnvInit { State.reset with hash := 5#32 }).hash = 0x811C9DC5#32 := by decide

/-- Section 2, row 11 (the XOR comes first, then the product's low 32 bits). -/
theorem test_fnvUpdate_a : (after (.fnvUpdate 0x61#8) State.reset).hash = 0xE40C292C#32 := by decide

/-- Section 2, row 15. -/
theorem test_fnvUpdate_xor_first :
    (after (.fnvUpdate 1#8) { State.reset with hash := 0#32 }).hash = 0x01000193#32 := by decide

/-- Section 2, row 5: `"foobar"`. -/
theorem test_fnvBlock_foobar :
    (after .fnvBlock (loaded [0x66#8, 0x6F#8, 0x6F#8, 0x62#8, 0x61#8, 0x72#8])).hash =
      0xBF9CF968#32 := by decide

/-- 40_checksum.md R117: past IBUF the fold fails and `HASH` is unchanged. -/
theorem test_fnvBlock_size :
    (after .fnvBlock { State.reset with ilen := 65#32, hash := 7#32 }).hash = 7#32 ∧
      (after .fnvBlock { State.reset with ilen := 65#32 }).cause = .size := by decide

/-- T-CPY 1. -/
theorem test_cksCopy_hello :
    output (after .cksCopy (loaded [0x48#8, 0x65#8, 0x6C#8, 0x6C#8, 0x6F#8])) =
      [0x48#8, 0x65#8, 0x6C#8, 0x6C#8, 0x6F#8, 0x4B#8, 0x31#8, 0xA9#8].map some := by decide

/-- T-CPY 6. -/
theorem test_cksCopy_bound :
    (after .cksCopy { loaded [0x48#8, 0x65#8, 0x6C#8, 0x6C#8, 0x6F#8] with omax := 7#32 }).cause =
      .size := by decide

/-- T-VAL 10 (EX2): the 4-byte tag of `"a"`. -/
theorem test_cksValidate_four :
    (after .cksValidate
      { loaded [0x61#8, 0x2C#8, 0x29#8, 0x0C#8, 0xE4#8] with cfg := ex2 }).res = 1#32 := by decide

/-- T-VAL 6: a bare tag is invalid, and that is no failure. -/
theorem test_cksValidate_bare_tag :
    (after .cksValidate (loaded [0xC5#8, 0x9D#8, 0x9D#8])).res = 0#32 ∧
      (after .cksValidate (loaded [0xC5#8, 0x9D#8, 0x9D#8])).cause = .none := by decide

/-- T-HDR 7: `sn` is masked. -/
theorem test_hdrPack_masks :
    (after (.hdrPack 33 true false false) State.reset).res = 0x21#32 := by decide

/-- T-HDR 4. -/
theorem test_hdrPack_last : (after (.hdrPack 2 false false true) State.reset).res = 0x82#32 := by
  decide

/-- T-HDR 14. -/
theorem test_hdrUnpack_binary : (after (.hdrUnpack 0x25#8) State.reset).res = 0x105#32 := by decide

/-- T-HDR 13. -/
theorem test_hdrUnpack_first_last :
    (after (.hdrUnpack 0xC0#8) State.reset).res = 0x600#32 := by decide

/-- T-DET 5: a sentinel at the last index. -/
theorem test_binDetect_last :
    (after .binDetect (loaded [0x41#8, 0x42#8, 0x01#8])).res = 1#32 := by decide

/-- T-DET 4: non-ASCII bytes are not sentinels. -/
theorem test_binDetect_non_ascii :
    (after .binDetect (loaded [0xFF#8, 0x80#8, 0x7F#8])).res = 0#32 := by decide

/-- T-ENC 11: `FB FF` is `+/8=`. -/
theorem test_b64Enc_padding :
    output (after .b64Enc (loaded [0xFB#8, 0xFF#8])) =
      [0x2B#8, 0x2F#8, 0x38#8, 0x3D#8].map some := by decide

/-- T-ENC 12: `14 FB 9C 03 D9 7E` is `FPucA9l+`. -/
theorem test_b64Enc_groups :
    output (after .b64Enc (loaded [0x14#8, 0xFB#8, 0x9C#8, 0x03#8, 0xD9#8, 0x7E#8])) =
      [0x46#8, 0x50#8, 0x75#8, 0x63#8, 0x41#8, 0x39#8, 0x6C#8, 0x2B#8].map some := by decide

/-- T-DEC 5: `Zh==`, the unused bits are ignored. -/
theorem test_b64Dec_unused_bits :
    output (after .b64Dec (loaded [0x5A#8, 0x68#8, 0x3D#8, 0x3D#8])) = [some 0x66#8] := by decide

/-- T-DEC 32: `Zg==Zg==`, a padded quartet that is not the last. -/
theorem test_b64Dec_inner_padding :
    (after .b64Dec (loaded
      [0x5A#8, 0x67#8, 0x3D#8, 0x3D#8, 0x5A#8, 0x67#8, 0x3D#8, 0x3D#8])).cause = .decode := by
  decide

/-- T-TX 7: a binary payload is encoded, behind the sentinel. -/
theorem test_chunkTx_binary :
    output (after (.chunkTx 0 true true) (loaded [0x48#8, 0x00#8, 0x69#8])) =
      [0xFE#8, 0x34#8, 0x45#8, 0x67#8, 0x41#8, 0x61#8, 0x56#8, 0x4B#8, 0x43#8, 0x72#8, 0x41#8,
        0x3D#8, 0x3D#8].map some := by decide

/-- T-TX 11 (EX2): a plain chunk with a 4-byte tag. -/
theorem test_chunkTx_plain_four :
    output (after (.chunkTx 0 true true) { loaded [0x47#8, 0x48#8] with cfg := ex2 }) =
      [0xC0#8, 0x47#8, 0x48#8, 0x00#8, 0x1B#8, 0xFA#8, 0x4A#8].map some := by decide

/-- T-RX 3: an encoded one-chunk message is delivered with its binary flag. -/
theorem test_chunkRx_encoded :
    let t := after .chunkRx (loaded [0xFE#8, 0x34#8, 0x45#8, 0x67#8, 0x41#8, 0x61#8, 0x56#8, 0x4B#8,
      0x43#8, 0x72#8, 0x41#8, 0x3D#8, 0x3D#8])
    statusWord t = 0x600#32 ∧ t.msgLen = 3 ∧ t.rbuf = [(0, 0x48#8), (1, 0x00#8), (2, 0x69#8)] := by
  decide

/-- T-RX 17: a first chunk with `sn = 3` discards the open frame. -/
theorem test_chunkRx_first_three_discards :
    statusWord (after .chunkRx (opened chunkFirstThree)) = 0x805#32 := by decide

/-! ### Steps -/

/-- One step from reset runs the command the host writes: an empty chunk fails its tag (T-RX 7). -/
theorem test_step_runs_the_word :
    (afterStep (State.reset.withFetchWord 32 0x41)).cause = .integrity := by decide

/-- T-TX 16: `CHUNK_TX` with `FB = 1` is illegal. -/
theorem test_step_illegal_word :
    (afterStep (State.reset.withFetchWord 32 0x00030040)).cause = .illegal := by decide

/-- Section 0: `CFG0` of EX1. -/
theorem test_read_cfg0 :
    (afterStep { State.reset with pending := [.csrRead 11] }).response =
      some (.word 0x0000201B#32) := by decide

/-! ### Witnesses: the hypotheses of each statement are met, at the ends of their ranges -/

theorem witness_wf : (Instr.hdrPack 255 true true true).wf = true ∧
    (Instr.chunkTx 255 true true).wf = true := by decide

/-- `StepRunsTheDecodedCommand`, `EncodeOfDecodedWord`. -/
theorem witness_decoded_command :
    (State.reset.withFetchWord 32 0x41).pending = [.csrWrite 0 0x41#32] ∧
      decodeWord 0x41#32 = .ok .chunkRx := by decide

/-- `IllegalWordOnlyRecordsItsCause`. -/
theorem witness_illegal_word :
    (State.reset.withFetchWord 32 0x10040).pending = [.csrWrite 0 0x10040#32] ∧
      ∀ r ∈ opcodeTable, r.selects 0x10040#32 = false := by decide

/-- `StepWithoutTransactionChangesNothing`. -/
theorem witness_no_transaction : State.reset.pending = [] := by decide

/-- `RegisterAccess`: the writable registers and read-only ones, the first and the last index. -/
theorem witness_registers :
    csrOfIndex 0 = some .cmd ∧ csrOfIndex 3 = some .hash ∧ csrOfIndex 5 = some .ilen ∧
      csrOfIndex 7 = some .omax ∧ csrOfIndex 1 = some .status ∧ csrOfIndex 16 = some .cfg5 := by
  decide

/-- `TagRegisterPacksTheTag`: both widths, and the last tag byte of each. -/
theorem witness_tag_widths :
    State.reset.cfg.tagw = .three ∧ 2 < State.reset.cfg.tagw.bytes ∧
      (State.resetOf ex2).cfg.tagw = .four ∧ 3 < (State.resetOf ex2).cfg.tagw.bytes := by decide

/-- A state with a delivered message of one byte. -/
def delivered : State := { State.reset with rbuf := [(0, 0x42#8)], msgValid := true, msgLen := 1 }

/-- `ReassemblerRegisters`, `OnlyTheDeliveredMessageIsReadable`, `StepKeepsTheInvariant`. -/
theorem witness_delivered_inv : delivered.Inv where
  ibufWf := by decide
  obufWf := by decide
  rbufWf := by decide
  ibufBound := by decide
  obufBound := by decide
  rbufBound := by decide
  idleEmpty := by decide
  rlenBound := by decide
  noMessage := by decide
  msgLenBound := by decide
  messageIdle := by decide
  olenBound := by decide
  outputSpecified := by decide
  frameSpecified := by decide
  messageSpecified := by decide

/-- `OnlyTheDeliveredMessageIsReadable`: the last message byte, the first index past it and the last
of RBUF. -/
theorem witness_message_window :
    (delivered.msgValid = true ∧ 0 < delivered.msgLen) ∧
      (¬(delivered.msgValid = true ∧ 1 < delivered.msgLen) ∧ 1 < delivered.cfg.maxf) ∧
      (¬(State.reset.msgValid = true ∧ 159 < State.reset.msgLen) ∧
        159 < State.reset.cfg.maxf) := by decide

/-- `StepKeepsTheInvariant`, `ConfigurationIsConstant`. -/
theorem witness_step : step delivered = .next delivered := rfl

/-- `InputBufferReadsBackWhatTheHostWrote`, `OutputBufferIsReadOnlyToTheHost`: the last index,
with and without a specified byte. -/
theorem witness_buffer_index :
    63 < State.reset.cfg.ibufSize ∧
      63 < ({ State.reset with obuf := [(63, 1#8)] } : State).cfg.obufSize ∧
      Memory.readByte [(63, 1#8)] 63 = some 1#8 ∧ State.reset.obuf.readByte 63 = none := by decide

/-- `IndexOutsideItsSpaceStops`: the first index outside each space. -/
theorem witness_index_outside :
    17 ≤ 17 ∧ State.reset.cfg.ibufSize ≤ 64 ∧ State.reset.cfg.obufSize ≤ 64 ∧
      State.reset.cfg.maxf ≤ 160 := by decide

/-- The input bound of every command with an input string: the last `ILEN` within IBUF and the first
past it. -/
theorem witness_input_bound :
    ({ State.reset with ilen := 64#32 } : State).ilen.toNat ≤ State.reset.cfg.ibufSize ∧
      State.reset.cfg.ibufSize < ({ State.reset with ilen := 65#32 } : State).ilen.toNat := by decide

/-- `CksCopyAppendsTheTag`, `B64EncProducesTheEncoding`: outputs that fill OBUF exactly, and outputs
one step longer (T-CPY 8; 95_test_vectors.md section 6, bounds). -/
theorem witness_output_bound :
    61 + State.reset.cfg.tagw.bytes ≤ obound State.reset ∧
      ¬62 + State.reset.cfg.tagw.bytes ≤ obound State.reset ∧
      b64Len 48 ≤ obound State.reset ∧ ¬b64Len 49 ≤ obound State.reset := by decide

/-- `OneByteCorruptionIsDetected`: the first data byte and the last tag byte of T-VAL 1. -/
theorem witness_corruption :
    validate .three [0x61#8, 0x2C#8, 0x29#8, 0xE8#8] = true ∧
      ([0x61#8, 0x2C#8, 0x29#8, 0xE8#8] : List Byte)[0]? ≠ some 0x60#8 ∧
      ([0x61#8, 0x2C#8, 0x29#8, 0xE8#8] : List Byte)[3]? ≠ some 0xE9#8 := by decide

/-- `B64DecProducesTheDecoding`: an input that decodes, at the output bound and one below it
(95_test_vectors.md section 6), and one that does not. -/
theorem witness_decode :
    base64Decode (inputString (loaded [0x5A#8, 0x6D#8, 0x39#8, 0x76#8])) =
        some [0x66#8, 0x6F#8, 0x6F#8] ∧
      3 ≤ obound { loaded [] with omax := 3#32 } ∧ ¬3 ≤ obound { loaded [] with omax := 2#32 } ∧
      base64Decode (inputString (loaded [0x5A#8, 0x67#8, 0x3D#8])) = none := by decide

/-- `ChunkTxProducesTheWireChunk`: the largest `sn`; a payload of `M` bytes whose chunk has exactly
`OBOUND` bytes; one byte over `M`; one byte under the chunk's length. -/
theorem witness_chunkTx :
    255 < 256 ∧
      (loaded [0x48#8, 0x65#8, 0x6C#8, 0x6C#8, 0x6F#8]).ilen.toNat ≤ Cfg.ex1.m ∧
      (buildChunk Cfg.ex1.toCfgData 0 true false
        [0x48#8, 0x65#8, 0x6C#8, 0x6C#8, 0x6F#8]).length = 9 ∧
      9 ≤ obound { State.reset with omax := 9#32 } ∧
      ¬9 ≤ obound { State.reset with omax := 8#32 } ∧
      Cfg.ex1.m < (loaded [1#8, 1#8, 1#8, 1#8, 1#8, 1#8]).ilen.toNat := by decide

/-- `BuiltChunksFitAndVerify`: payloads of `M` bytes, plain and binary, and the empty one. -/
theorem witness_built_chunks :
    ([0x48#8, 0x65#8, 0x6C#8, 0x6C#8, 0x6F#8] : List Byte).length ≤ Cfg.ex1.m ∧
      (Cfg.ex1.b64En && isBinary Cfg.ex1.toCfgData [0x48#8, 0x65#8, 0x6C#8, 0x6C#8, 0x6F#8]) = false ∧
      (Cfg.ex1.b64En && isBinary Cfg.ex1.toCfgData [0x48#8, 0x00#8, 0x69#8]) = true := by decide

/-- `SendLoopMakesTheMessageChunks`, `ReassemblyOfADisassembledMessage`: a message of `MAXF` bytes,
its first and last chunk, in a round-trip safe configuration; and a message one byte longer. -/
theorem witness_send_loop :
    State.reset.cfg.obufSize ≤ State.reset.omax.toNat ∧
      (List.replicate 160 (0x41#8 : Byte)).length ≤ State.reset.cfg.maxf ∧
      State.reset.cfg.maxf < (List.replicate 161 (0x41#8 : Byte)).length ∧
      0 < chunkCount State.reset.cfg.toCfgData 160 ∧ 31 < chunkCount State.reset.cfg.toCfgData 160 ∧
      State.reset.cfg.rtSafe = true := by
  simp only [List.length_replicate]
  decide

/-- What a turn of the send loop hands over, when it runs. -/
def handedOver (s : State) (msg : List Byte) (i : Nat) : Option (List Byte) :=
  match sendTurn s.cfg.toCfgData msg i s with
  | .next (_, w) => some w
  | .fault _ => none
  | .refused _ => none

/-- `SEND_FRAME "GH"` hands over the chunk of 70_reset_and_hazards.md R301, and, with `OMAX` one byte below
the chunk's length, the `OLEN = 0` bytes of a failed `CHUNK_TX` (43_frame_tx.md R171, R173). -/
theorem test_send_turn :
    handedOver State.reset [0x47#8, 0x48#8] 0 =
        some [0xC0#8, 0x47#8, 0x48#8, 0x00#8, 0x1B#8, 0xB0#8] ∧
      handedOver { State.reset with omax := 5#32 } [0x47#8, 0x48#8] 0 = some [] := by decide

/-- `ChunkRxSizeRefusal`: `ILEN` one past `MTU`, and one past IBUF. -/
theorem witness_rx_size :
    State.reset.cfg.mtu < ({ State.reset with ilen := 21#32 } : State).ilen.toNat ∧
      State.reset.cfg.ibufSize < ({ State.reset with ilen := 65#32 } : State).ilen.toNat := by decide

/-- `ChunkRxDecodeFailure`: T-RX 16, with a frame open. -/
theorem witness_rx_decode :
    let s := opened [0xFE#8, 0x5A#8, 0x67#8, 0x3D#8]
    s.ilen.toNat ≤ s.cfg.mtu ∧ s.cfg.b64En = true ∧
      inputString s = s.cfg.sentEnc :: [0x5A#8, 0x67#8, 0x3D#8] ∧
      base64Decode [0x5A#8, 0x67#8, 0x3D#8] = none := by decide

/-- `ChunkRxIntegrityFailure`: T-RX 9 (a bare tag). -/
theorem witness_rx_integrity :
    let s := loaded [0xC5#8, 0x9D#8, 0x9D#8]
    s.ilen.toNat ≤ s.cfg.mtu ∧
      rxBlock s.cfg.toCfgData (inputString s) = some [0xC5#8, 0x9D#8, 0x9D#8] ∧
      validate s.cfg.tagw [0xC5#8, 0x9D#8, 0x9D#8] = false := by decide

theorem input_loaded_first_three : inputString (opened chunkFirstThree) = chunkFirstThree := by
  decide

theorem input_loaded_one : inputString (opened chunkOne) = chunkOne := by decide

theorem input_loaded_three : inputString (opened chunkThree) = chunkThree := by decide

theorem input_loaded_hello : inputString (opened chunkHello) = chunkHello := by decide

theorem input_loaded_last : inputString (opened chunkLast) = chunkLast := by decide

theorem input_loaded_empty : inputString (opened chunkEmpty) = chunkEmpty := by decide

theorem valid_first_three :
    ValidChunk Cfg.ex1.toCfgData chunkFirstThree ⟨3#5, false, true, false⟩ [0x78#8, 0x79#8] :=
  ⟨by decide, chunkFirstThree, by decide, by decide, by decide, by decide⟩

theorem valid_one :
    ValidChunk Cfg.ex1.toCfgData chunkOne ⟨1#5, false, false, false⟩
      [0x46#8, 0x47#8, 0x48#8, 0x49#8, 0x4A#8] :=
  ⟨by decide, chunkOne, by decide, by decide, by decide, by decide⟩

theorem valid_three :
    ValidChunk Cfg.ex1.toCfgData chunkThree ⟨3#5, false, false, true⟩
      [0x50#8, 0x51#8, 0x52#8, 0x53#8, 0x54#8] :=
  ⟨by decide, chunkThree, by decide, by decide, by decide, by decide⟩

theorem valid_hello :
    ValidChunk Cfg.ex1.toCfgData chunkHello ⟨0#5, false, true, false⟩
      [0x48#8, 0x65#8, 0x6C#8, 0x6C#8, 0x6F#8] :=
  ⟨by decide, chunkHello, by decide, by decide, by decide, by decide⟩

theorem valid_last :
    ValidChunk Cfg.ex1.toCfgData chunkLast ⟨1#5, false, false, true⟩ [0x42#8, 0x42#8] :=
  ⟨by decide, chunkLast, by decide, by decide, by decide, by decide⟩

theorem valid_empty : ValidChunk Cfg.ex1.toCfgData chunkEmpty ⟨0#5, false, true, true⟩ [] :=
  ⟨by decide, chunkEmpty, by decide, by decide, by decide, by decide⟩

/-- `FirstChunkMustHaveSequenceZero`: T-RX 17. -/
theorem witness_first_sequence :
    ValidChunk (opened chunkFirstThree).cfg.toCfgData (inputString (opened chunkFirstThree))
        ⟨3#5, false, true, false⟩ [0x78#8, 0x79#8] ∧ (3#5 : BitVec 5) ≠ 0#5 :=
  ⟨input_loaded_first_three.symm ▸ valid_first_three, by decide⟩

/-- `NonFirstChunkWithoutFrameIsDropped`: S7 chunk 1 while `IDLE`. -/
theorem witness_no_frame :
    ValidChunk (loaded chunkOne).cfg.toCfgData (inputString (loaded chunkOne))
        ⟨1#5, false, false, false⟩ [0x46#8, 0x47#8, 0x48#8, 0x49#8, 0x4A#8] ∧
      (loaded chunkOne).rstate = .idle :=
  ⟨input_loaded_one.symm ▸ valid_one, rfl⟩

/-- `WrongSequenceNumberDiscardsTheFrame`: `sn = 3` where 1 is expected. -/
theorem witness_gap :
    ValidChunk (opened chunkThree).cfg.toCfgData (inputString (opened chunkThree))
        ⟨3#5, false, false, true⟩ [0x50#8, 0x51#8, 0x52#8, 0x53#8, 0x54#8] ∧
      (opened chunkThree).rstate = .acc ∧ 3#5 ≠ (opened chunkThree).expSn :=
  ⟨input_loaded_three.symm ▸ valid_three, rfl, by decide⟩

/-- `ExpectedChunkIsAppended`, both clauses: a further chunk and a last one; and a frame that fills
RBUF exactly. -/
theorem witness_append :
    (ValidChunk (opened chunkOne).cfg.toCfgData (inputString (opened chunkOne))
        ⟨1#5, false, false, false⟩ [0x46#8, 0x47#8, 0x48#8, 0x49#8, 0x4A#8] ∧
      ValidChunk (opened chunkLast).cfg.toCfgData (inputString (opened chunkLast))
        ⟨1#5, false, false, true⟩ [0x42#8, 0x42#8]) ∧
      1#5 = (opened chunkOne).expSn ∧ (opened chunkOne).rlen + 5 ≤ Cfg.ex1.maxf ∧
      ({ opened chunkLast with rlen := 158 } : State).rlen + 2 ≤ Cfg.ex1.maxf :=
  ⟨⟨input_loaded_one.symm ▸ valid_one, input_loaded_last.symm ▸ valid_last⟩, by decide, by decide,
    by decide⟩

/-- `OverflowDiscardsTheFrame`, non-first clause: one byte more than RBUF holds. -/
theorem witness_overflow_next :
    let s := { opened chunkLast with rlen := 159 }
    ValidChunk s.cfg.toCfgData (inputString s) ⟨1#5, false, false, true⟩ [0x42#8, 0x42#8] ∧
      s.rstate = .acc ∧ 1#5 = s.expSn ∧ s.cfg.maxf < s.rlen + 2 :=
  ⟨input_loaded_last.symm ▸ valid_last, rfl, by decide, by decide⟩

/-- The configuration of T-RX 32: `M = 1`, `N = 2`, `MAXF = 2`. -/
def exSmall : Cfg := { Cfg.ex1 with m := 1, n := 2, wf := by decide }

/-- T-RX 32: a valid one-chunk frame with three payload bytes. -/
def chunkThreeBytes : List Byte := [0xC0#8, 0x41#8, 0x42#8, 0x43#8, 0xB1#8, 0x67#8, 0x45#8]

/-- `OverflowDiscardsTheFrame`, first-chunk clause: T-RX 32. -/
theorem witness_overflow_first :
    let s := { loaded chunkThreeBytes with cfg := exSmall }
    ValidChunk s.cfg.toCfgData (inputString s) ⟨0#5, false, true, true⟩ [0x41#8, 0x42#8, 0x43#8] ∧
      s.cfg.maxf < 3 :=
  ⟨⟨by decide, chunkThreeBytes, by decide, by decide, by decide, by decide⟩, by decide⟩

/-- `FirstChunkOpensAFrame`, both clauses, with a frame open. -/
theorem witness_first_chunk :
    ValidChunk (opened chunkHello).cfg.toCfgData (inputString (opened chunkHello))
        ⟨0#5, false, true, false⟩ [0x48#8, 0x65#8, 0x6C#8, 0x6C#8, 0x6F#8] ∧
      ValidChunk (opened chunkEmpty).cfg.toCfgData (inputString (opened chunkEmpty))
        ⟨0#5, false, true, true⟩ [] ∧ 5 ≤ Cfg.ex1.maxf :=
  ⟨input_loaded_hello.symm ▸ valid_hello, input_loaded_empty.symm ▸ valid_empty, by decide⟩

/-- `GapLosesTheFrame`: the chunks 0, 1 and 3 of S7 (chunk 0 of S6), then chunk 3 again. -/
theorem witness_gap_frame :
    State.reset.rstate = .idle ∧
      ValidChunk State.reset.cfg.toCfgData chunkHello ⟨0#5, false, true, false⟩
        [0x48#8, 0x65#8, 0x6C#8, 0x6C#8, 0x6F#8] ∧
      ValidChunk State.reset.cfg.toCfgData chunkOne ⟨1#5, false, false, false⟩
        [0x46#8, 0x47#8, 0x48#8, 0x49#8, 0x4A#8] ∧
      ValidChunk State.reset.cfg.toCfgData chunkThree ⟨3#5, false, false, true⟩
        [0x50#8, 0x51#8, 0x52#8, 0x53#8, 0x54#8] ∧ 5 + 5 ≤ State.reset.cfg.maxf :=
  ⟨rfl, valid_hello, valid_one, valid_three, by decide⟩

/-- A two-chunk frame: S6's chunk 0 and S8's frame B chunk 1. -/
def frameTwo : List Received :=
  [⟨chunkHello, ⟨0#5, false, true, false⟩, [0x48#8, 0x65#8, 0x6C#8, 0x6C#8, 0x6F#8]⟩,
    ⟨chunkLast, ⟨1#5, false, false, true⟩, [0x42#8, 0x42#8]⟩]

/-- `RestartAssemblesTheNewFrame`: B with one chunk (T-RX 1) and with two, A open, and A's first
chunk. -/
theorem witness_restart :
    WholeFrame Cfg.ex1.toCfgData [⟨chunkEmpty, ⟨0#5, false, true, true⟩, []⟩] ∧
      WholeFrame Cfg.ex1.toCfgData frameTwo ∧ (opened []).rstate = .acc ∧
      ValidChunk Cfg.ex1.toCfgData chunkHello ⟨0#5, false, true, false⟩
        [0x48#8, 0x65#8, 0x6C#8, 0x6C#8, 0x6F#8] ∧ 5 ≤ Cfg.ex1.maxf := by
  refine ⟨⟨by decide, by decide, fun i b h => ?_⟩, ⟨by decide, by decide, fun i b h => ?_⟩, rfl,
    valid_hello, by decide⟩
  · match i, h with
    | 0, h => cases h; exact ⟨valid_empty, rfl, rfl, rfl⟩
  · match i, h with
    | 0, h => cases h; exact ⟨valid_hello, rfl, rfl, rfl⟩
    | 1, h => cases h; exact ⟨valid_last, rfl, rfl, rfl⟩

/-- `ReassemblyOfADisassembledMessage`: the empty message's chunk (T-RX 1), with register, buffer and
command transactions interleaved. -/
theorem witness_interleaving :
    disassemble Cfg.ex1.toCfgData [] = some [chunkEmpty] ∧
      Round.allowed Cfg.ex1.toCfgData
        ⟨[.ibufWrite 63 1#8, .csrWrite 5 7#32, .csrWrite 0 0#32, .rbufRead 159], chunkEmpty,
          [commandTxn (.chunkTx 3 true false), commandTxn .fnvBlock, .csrRead 16, .obufWrite 63 0#8]⟩ :=
  ⟨by decide, by decide, by decide⟩

/-- `DecoderGroups`, each clause: `Zg==` and `Zh==`, `Zm8=`, `Zm9v`; a length that is no multiple of
4; and quartets refused for a symbol, for the place of `=` and for what follows it. -/
theorem witness_decoder_groups :
    symVal 0x5A#8 = some 25#6 ∧ symVal 0x67#8 = some 32#6 ∧ symVal 0x68#8 = some 33#6 ∧
      symVal 0x6D#8 = some 38#6 ∧ symVal 0x38#8 = some 60#6 ∧ symVal 0x39#8 = some 61#6 ∧
      symVal 0x76#8 = some 47#6 ∧ ([0x5A#8] : List Byte).length % 4 ≠ 0 ∧ symVal 0x2D#8 = none ∧
      symVal 0x3D#8 = none ∧ (0x3D#8 : Byte) = 0x3D#8 ∧ (0x67#8 : Byte) ≠ 0x3D#8 ∧
      ([0x5A#8] : List Byte) ≠ [] := by decide

/-- `Zh==` decodes to `66`, as `Zg==` does (42_base64.md R146 b). -/
theorem test_decode_ignores_unused_bits :
    base64Decode [0x5A#8, 0x68#8, 0x3D#8, 0x3D#8] = some [0x66#8] := by decide

/-- `ReassemblerRegisters`, `RegisterAccess`: the greatest length a word holds. -/
theorem witness_length_registers :
    ({ State.reset with rlen := 4294967295 } : State).rlen < 2 ^ 32 ∧
      ({ State.reset with msgLen := 4294967295 } : State).msgLen < 2 ^ 32 ∧
      csrOfIndex 16 = some .cfg5 := by decide

/-- A configuration that 00_scope.md R7 calls well formed though its `MAXF` is 2³². -/
theorem test_wf_accepts_wide_maxf :
    ({ Cfg.ex1.toCfgData with
      m := 134217728, n := 32, mtu := 268435456, ibufSize := 268435456
      obufSize := 268435456 } : CfgData).wf = true := by decide

/-- `FailedCommandEffect`, each clause: a producing command, `CHUNK_RX` and another one that fail. -/
theorem witness_failed_command :
    isProducing .cksCopy = true ∧ isProducing .fnvBlock = false ∧
      (after .cksCopy { State.reset with ilen := 65#32 }).cause ≠ .none ∧
      (after .fnvBlock { State.reset with ilen := 65#32 }).cause ≠ .none ∧
      (after .chunkRx { State.reset with ilen := 21#32 }).cause = .size ∧
      (after .chunkRx State.reset).cause = .integrity := by decide

/-- `ResultDependsOnTheDeclaredInputOnly`: two buffers that differ at `ILEN` alone, and `ILEN` one
past IBUF. -/
theorem witness_declared_input :
    (takesInput .chunkRx = true → (loaded [1#8]).ilen.toNat ≤ (loaded [1#8]).cfg.ibufSize →
      ∀ a < (loaded [1#8]).ilen.toNat,
      inputByte { loaded [1#8] with ibuf := [(0, 1#8), (1, 2#8)] } a = inputByte (loaded [1#8]) a) ∧
      takesInput .chunkRx = true ∧
      State.reset.cfg.ibufSize < ({ State.reset with ilen := 65#32 } : State).ilen.toNat := by decide

/-- `WhichCommandsWriteWhat`: a command that is none of those excepted. -/
theorem witness_other_command : exec .binDetect State.reset = .next (after .binDetect State.reset) ∧
    isProducing .binDetect = false := ⟨rfl, rfl⟩

end Sys2Proof.Tests
end

