-- ==== Sys2Proof/Proofs/Scope.lean ====
section
/-! PROOFS. The statements of 00_scope.md. -/

namespace Sys2Proof.Proofs

open Sys2Proof.Machine

/-- Settles O7: the empty list of transactions selects the branch of `step` that answers the state
it was given. -/
theorem stepWithoutTransactionChangesNothing : Obligations.StepWithoutTransactionChangesNothing := by
  intro s hpending
  rw [step, hpending]

end Sys2Proof.Proofs
end

section
/-! PROOFS. The statements of 10_state.md: the ways a command can end, the invariant, and what each
command writes. -/

namespace Sys2Proof.Proofs

open Sys2Proof.Machine

/-! ### Every way a command can end -/

/-- The commands that write `HASH` (10_state.md R37). -/
def writesHash (i : Instr) : Prop := i = .fnvInit ∨ i = .fnvBlock ∨ ∃ b, i = .fnvUpdate b

/-- The states a command can leave, by the shared operation that ends it (45_system.md R231 to
R234). -/
inductive CommandEnd (i : Instr) (s : State) : State → Prop
  | reset : i = .sreset → CommandEnd i s (softReset s)
  | hashed (h : Word) : writesHash i → CommandEnd i s (setHash h s)
  | succeeded (r : Word) : isProducing i = false → CommandEnd i s (succeed r false s)
  | refusedInput : isProducing i = false → CommandEnd i s (raise .size false s)
  | failedOutput (c : Cause) : isProducing i = true → CommandEnd i s (raiseProducing c s)
  | produced (out : List Byte) (r : Word) :
      isProducing i = true → out.length ≤ obound s → CommandEnd i s (produce out r s)
  | received :
      i = .chunkRx → s.ilen.toNat ≤ s.cfg.mtu → CommandEnd i s (rxChunk (inputString s) s)

/-- A property of both ends of the input check holds of its result. -/
theorem withInput_ind {P : State → Prop} {s onSize : State} {k : List Byte → State}
    (hsize : P onSize) (hk : P (k (inputString s))) : P (withInput s onSize k) := by
  rcases withInput_cases s onSize k with ⟨_, h⟩ | ⟨_, h⟩ <;> rw [h]
  exacts [hsize, hk]

theorem commandEnd_produceBounded {i : Instr} (hi : isProducing i = true) (out : List Byte)
    (r : Word) (s : State) : CommandEnd i s (produceBounded out r s) := by
  rcases produceBounded_cases out r s with ⟨_, h⟩ | ⟨hlen, h⟩ <;> rw [h]
  exacts [.failedOutput _ hi, .produced _ _ hi hlen]

theorem commandEnd_of_exec {i : Instr} {s t : State} (h : exec i s = .next t) :
    CommandEnd i s t := by
  cases i <;> injection h with h <;> subst h
  case sreset => exact .reset rfl
  case fnvInit => exact .hashed _ (.inl rfl)
  case fnvUpdate b => exact .hashed _ (.inr (.inr ⟨b, rfl⟩))
  case fnvBlock => exact withInput_ind (.refusedInput rfl) (.hashed _ (.inr (.inl rfl)))
  case cksCopy =>
    exact withInput_ind (.failedOutput _ rfl) (commandEnd_produceBounded rfl _ _ _)
  case cksValidate => exact withInput_ind (.refusedInput rfl) (.succeeded _ rfl)
  case hdrPack => exact .succeeded _ rfl
  case hdrUnpack => exact .succeeded _ rfl
  case binDetect => exact withInput_ind (.refusedInput rfl) (.succeeded _ rfl)
  case b64Enc =>
    exact withInput_ind (.failedOutput _ rfl) (commandEnd_produceBounded rfl _ _ _)
  case b64Dec =>
    refine withInput_ind (.failedOutput _ rfl) ?_
    cases base64Decode (inputString s) with
    | none => exact .failedOutput _ rfl
    | some out => exact commandEnd_produceBounded rfl _ _ _
  case chunkTx =>
    refine withInput_ind (.failedOutput _ rfl) ?_
    split
    · exact .failedOutput _ rfl
    · exact commandEnd_produceBounded rfl _ _ _
  case chunkRx =>
    refine withInput_ind (.refusedInput rfl) ?_
    split
    · exact .refusedInput rfl
    · next hfit => exact .received rfl (by simpa using hfit)

/-! ### The invariant and the shared operations -/

theorem inv_resetOf (c : Cfg) : (State.resetOf c).Inv where
  ibufWf := .nil
  obufWf := .nil
  rbufWf := .nil
  ibufBound := nofun
  obufBound := nofun
  rbufBound := nofun
  idleEmpty _ := rfl
  rlenBound := Nat.zero_le _
  noMessage _ := ⟨rfl, rfl⟩
  msgLenBound := Nat.zero_le _
  messageIdle := nofun
  olenBound := Nat.zero_le _
  outputSpecified := nofun
  frameSpecified := nofun
  messageSpecified := nofun

section

variable {s : State}

/-- `SRESET` leaves IBUF alone and is hardware reset for every other clause. -/
theorem inv_softReset (h : s.Inv) : (softReset s).Inv :=
  { inv_resetOf s.cfg with ibufWf := h.ibufWf, ibufBound := h.ibufBound }

theorem inv_raise (h : s.Inv) (c : Cause) (d : Bool) : (raise c d s).Inv := { h with }

theorem inv_succeed (h : s.Inv) (r : Word) (d : Bool) : (succeed r d s).Inv := { h with }

theorem inv_setHash (h : s.Inv) (w : Word) : (setHash w s).Inv := { h with }

theorem inv_acceptTxn (h : s.Inv) (rest : List Txn) : (acceptTxn rest s).Inv := { h with }

theorem inv_respond (h : s.Inv) (r : Response) : (respond r s).Inv := { h with }

theorem inv_ibufWrite (h : s.Inv) {i : Nat} (hi : i < s.cfg.ibufSize) (b : Byte) :
    { s with ibuf := s.ibuf.writeByte i b }.Inv :=
  { h with
    ibufWf := Memory.wf_writeByte h.ibufWf i b
    ibufBound := fun c hc => by
      rcases Memory.mem_writeByte hc with rfl | hc
      · exact hi
      · exact h.ibufBound c hc }

/-- With `OLEN = 0` no output byte is claimed, so bytes of OBUF may be forgotten. -/
theorem inv_raiseProducing (h : s.Inv) (c : Cause) : (raiseProducing c s).Inv :=
  { h with
    obufWf := Memory.wf_forgetBelow h.obufWf _
    obufBound := fun c hc => h.obufBound c (Memory.mem_of_mem_forgetBelow hc)
    olenBound := Nat.zero_le _
    outputSpecified := nofun }

theorem inv_produce (h : s.Inv) {out : List Byte} (hlen : out.length ≤ obound s) (r : Word) :
    (produce out r s).Inv := by
  obtain ⟨_, _, _, holen, hout, _⟩ := producedOutput_produce (r := r) hlen
  have hsize : out.length ≤ s.cfg.obufSize := Nat.le_trans hlen (obound_le s)
  exact { h with
    obufWf := Memory.wf_writeBytes (Memory.wf_forgetBelow h.obufWf _) _ _
    obufBound := fun c hc => by
      rcases Memory.mem_writeBytes hc with ⟨_, hc⟩ | hc
      · rw [produce_cfg]; omega
      · exact h.obufBound c (Memory.mem_of_mem_forgetBelow hc)
    olenBound := by rw [holen]; exact hsize
    outputSpecified := fun i hi => by
      rw [holen] at hi
      rw [hout i hi]
      simp [hi] }

/-! ### The invariant and the receive path -/

theorem inv_rxClearMessage (h : s.Inv) : (rxClearMessage s).Inv :=
  { h with
    noMessage := fun _ => ⟨rfl, rfl⟩
    msgLenBound := Nat.zero_le _
    messageIdle := nofun
    messageSpecified := nofun }

theorem inv_rxDiscard (h : s.Inv) : (rxDiscard s).Inv :=
  { h with
    idleEmpty := fun _ => rfl
    rlenBound := Nat.zero_le _
    messageIdle := fun _ => rfl
    frameSpecified := nofun }

theorem inv_rxFail (h : s.Inv) (c : Cause) : (rxFail c s).Inv := inv_raise (inv_rxDiscard h) _ _

theorem mem_rbuf_writeBytes_lt (h : s.Inv) {a : Nat} {p : List Byte}
    (hfit : a + p.length ≤ s.cfg.maxf) : ∀ c ∈ s.rbuf.writeBytes a p, c.1 < s.cfg.maxf := by
  intro c hc
  rcases Memory.mem_writeBytes hc with ⟨_, hlt⟩ | hc
  · omega
  · exact h.rbufBound c hc

/-- A payload written where the specified bytes end leaves specified bytes up to its own end. -/
theorem isSome_readByte_writeBytes {m : Memory} {a : Nat} {p : List Byte}
    (hm : ∀ i < a, (m.readByte i).isSome = true) :
    ∀ i < a + p.length, ((m.writeBytes a p).readByte i).isSome = true := by
  intro i hi
  rw [Memory.readByte_writeBytes]
  split
  · simp; omega
  · exact hm i (by omega)

theorem inv_rxOpen (h : s.Inv) (hmsg : s.msgValid = false) (b : Bool) {p : List Byte}
    (hfit : p.length ≤ s.cfg.maxf) : (rxOpen b p s).Inv :=
  { h with
    rbufWf := Memory.wf_writeBytes h.rbufWf 0 p
    rbufBound := mem_rbuf_writeBytes_lt h (by omega)
    idleEmpty := nofun
    rlenBound := hfit
    messageIdle := fun hv => by simp [hmsg] at hv
    frameSpecified := fun _ i hi =>
      isSome_readByte_writeBytes (fun _ h0 => absurd h0 (Nat.not_lt_zero _)) i (by simpa using hi)
    messageSpecified := fun hv => by simp [hmsg] at hv }

theorem inv_rxAppend (h : s.Inv) (hacc : s.rstate = .acc) (b : Bool) {p : List Byte}
    (hfit : s.rlen + p.length ≤ s.cfg.maxf) : (rxAppend b p s).Inv :=
  have hnomsg : s.msgValid ≠ true := fun hv => by simpa [hacc] using h.messageIdle hv
  { h with
    rbufWf := Memory.wf_writeBytes h.rbufWf s.rlen p
    rbufBound := mem_rbuf_writeBytes_lt h hfit
    idleEmpty := fun hidle => by simp [hacc] at hidle
    rlenBound := hfit
    frameSpecified := fun _ => isSome_readByte_writeBytes (h.frameSpecified hacc)
    messageSpecified := fun hv => absurd hv hnomsg }

/-- The delivered message is the open frame, whose bytes the invariant calls specified. -/
theorem inv_rxDeliver (h : s.Inv) (hacc : s.rstate = .acc) : (rxDeliver s).Inv :=
  { h with
    idleEmpty := fun _ => rfl
    rlenBound := Nat.zero_le _
    noMessage := nofun
    msgLenBound := h.rlenBound
    messageIdle := fun _ => rfl
    frameSpecified := nofun
    messageSpecified := fun _ => h.frameSpecified hacc }

theorem inv_rxComplete (h : s.Inv) (hacc : s.rstate = .acc) (last d : Bool) :
    (rxComplete last d s).Inv := by
  rcases rxComplete_cases last d s with ⟨_, heq⟩ | ⟨_, heq⟩ <;> rw [heq]
  exacts [inv_succeed (inv_rxDeliver h hacc) _ _, inv_succeed h _ _]

theorem inv_rxFirst (h : s.Inv) (hmsg : s.msgValid = false) (hd : Header) (p : List Byte) :
    (rxFirst hd p s).Inv := by
  rcases rxFirst_cases hd p s with ⟨_, heq⟩ | ⟨_, _, heq⟩ | ⟨_, hfit, heq⟩ <;> rw [heq]
  · exact inv_raise (inv_rxDiscard h) _ _
  · exact inv_raise (inv_rxDiscard h) _ _
  · exact inv_rxComplete (inv_rxOpen (inv_rxDiscard h) hmsg _ hfit) rfl _ _

theorem inv_rxNext (h : s.Inv) (hd : Header) (p : List Byte) : (rxNext hd p s).Inv := by
  rcases rxNext_cases hd p s with ⟨_, heq⟩ | ⟨_, _, heq⟩ | ⟨_, _, _, heq⟩ | ⟨hacc, _, hfit, heq⟩ <;>
    rw [heq]
  · exact inv_raise h _ _
  · exact inv_rxFail h _
  · exact inv_rxFail h _
  · exact inv_rxComplete (inv_rxAppend h hacc _ hfit) hacc _ _

theorem rxAccept_cases (blk : List Byte) (s : State) :
    ∃ hd p, rxAccept blk s = rxFirst hd p s ∨ rxAccept blk s = rxNext hd p s := by
  refine ⟨unpack (blk.headD 0#8), blockPayload s.cfg.tagw blk, ?_⟩
  simp only [rxAccept]
  split
  · exact .inl rfl
  · exact .inr rfl

/-- The message is cleared before a chunk is accepted, so an opened frame never stands beside one. -/
theorem inv_rxChunk (h : s.Inv) (w : List Byte) : (rxChunk w s).Inv := by
  have hclear := inv_rxClearMessage h
  rcases rxChunk_cases w s with ⟨_, heq⟩ | ⟨blk, _, ⟨_, heq⟩ | ⟨_, heq⟩⟩ <;> rw [heq]
  · exact inv_rxFail hclear _
  · exact inv_rxFail hclear _
  · obtain ⟨hd, p, heq | heq⟩ := rxAccept_cases blk (rxClearMessage s) <;> rw [heq]
    exacts [inv_rxFirst hclear rfl hd p, inv_rxNext hclear hd p]

/-! ### The invariant, commands and steps -/

theorem inv_exec {i : Instr} {t : State} (hs : s.Inv) (h : exec i s = .next t) : t.Inv := by
  cases commandEnd_of_exec h with
  | reset => exact inv_softReset hs
  | hashed => exact inv_setHash hs _
  | succeeded => exact inv_succeed hs _ _
  | refusedInput => exact inv_raise hs _ _
  | failedOutput => exact inv_raiseProducing hs _
  | produced _ _ _ hlen => exact inv_produce hs hlen _
  | received => exact inv_rxChunk hs _

theorem inv_performTxn {x : Txn} {t : State} (hs : s.Inv) (h : performTxn x s = .next t) :
    t.Inv := by
  rcases performTxn_next h with ⟨r, rfl⟩ | rfl | ⟨w, rfl⟩ | ⟨w, rfl⟩ | ⟨w, rfl⟩ | ⟨i, b, hi, rfl⟩ |
    rfl | ⟨i, hexec⟩
  · exact inv_respond hs r
  · exact hs
  · exact { hs with }
  · exact { hs with }
  · exact { hs with }
  · exact inv_ibufWrite hs hi b
  · exact inv_raise hs _ _
  · exact inv_exec hs hexec

end

/-- Settles O53: every buffer is empty and every length 0. -/
theorem invariantHoldsAtReset : Obligations.InvariantHoldsAtReset :=
  ⟨inv_resetOf, inv_resetOf Cfg.ex1⟩

/-- Settles O54: a step is no transaction or one, and each shared operation that ends a transaction
keeps the invariant. -/
theorem stepKeepsTheInvariant : Obligations.StepKeepsTheInvariant := by
  intro s t hs hstep
  rcases step_next hstep with ⟨_, rfl⟩ | ⟨x, rest, _, hx⟩
  · exact hs
  · exact inv_performTxn (inv_acceptTxn hs rest) hx

/-! ### What each command writes -/

section

variable {i : Instr} {s t : State}

theorem keepsAllButReception_rxComplete {last d : Bool} (h : keepsAllButReception s t) :
    keepsAllButReception s (rxComplete last d t) := by
  rcases rxComplete_cases last d t with ⟨_, heq⟩ | ⟨_, heq⟩ <;> rw [heq] <;> exact h

theorem keepsAllButReception_rxFirst (hd : Header) (p : List Byte)
    (h : keepsAllButReception s t) : keepsAllButReception s (rxFirst hd p t) := by
  rcases rxFirst_cases hd p t with ⟨_, heq⟩ | ⟨_, _, heq⟩ | ⟨_, _, heq⟩ <;> rw [heq]
  · exact h
  · exact h
  · exact keepsAllButReception_rxComplete h

theorem keepsAllButReception_rxNext (hd : Header) (p : List Byte)
    (h : keepsAllButReception s t) : keepsAllButReception s (rxNext hd p t) := by
  rcases rxNext_cases hd p t with ⟨_, heq⟩ | ⟨_, _, heq⟩ | ⟨_, _, _, heq⟩ | ⟨_, _, _, heq⟩ <;> rw [heq]
  · exact h
  · exact h
  · exact h
  · exact keepsAllButReception_rxComplete h

/-- A chunk writes the reassembler, the message and RBUF alone (10_state.md R37). -/
theorem keepsAllButReception_rxChunk (w : List Byte) (s : State) :
    keepsAllButReception s (rxChunk w s) := by
  have hclear : keepsAllButReception s (rxClearMessage s) := rfl
  rcases rxChunk_cases w s with ⟨_, heq⟩ | ⟨blk, _, ⟨_, heq⟩ | ⟨_, heq⟩⟩ <;> rw [heq]
  · rfl
  · rfl
  · obtain ⟨hd, p, heq | heq⟩ := rxAccept_cases blk (rxClearMessage s) <;> rw [heq]
    exacts [keepsAllButReception_rxFirst hd p hclear, keepsAllButReception_rxNext hd p hclear]

/-- The fields outside the receive path are the same in both states. -/
theorem keepsAllButReception_fields (h : keepsAllButReception s t) :
    t.hash = s.hash ∧ t.ilen = s.ilen ∧ t.olen = s.olen ∧ t.omax = s.omax ∧ t.ibuf = s.ibuf ∧
      t.obuf = s.obuf ∧ t.pending = s.pending ∧ t.response = s.response ∧ t.served = s.served := by
  have field {α : Type} (f : State → α) := congrArg f h
  exact ⟨field State.hash, field State.ilen, field State.olen, field State.omax, field State.ibuf,
    field State.obuf, field State.pending, field State.response, field State.served⟩

/-- No command writes IBUF or what the model keeps of the host. -/
theorem exec_keeps_host (h : exec i s = .next t) :
    t.ibuf = s.ibuf ∧ t.pending = s.pending ∧ t.response = s.response ∧ t.served = s.served := by
  cases commandEnd_of_exec h with
  | received =>
    obtain ⟨_, _, _, _, hibuf, _, hhost⟩ :=
      keepsAllButReception_fields (keepsAllButReception_rxChunk _ s)
    exact ⟨hibuf, hhost⟩
  | _ => exact ⟨rfl, rfl, rfl, rfl⟩

theorem exec_keeps_lengths (h : exec i s = .next t) (hi : i ≠ .sreset) :
    t.ilen = s.ilen ∧ t.omax = s.omax := by
  cases commandEnd_of_exec h with
  | reset hreset => exact absurd hreset hi
  | received =>
    obtain ⟨_, hilen, _, homax, _⟩ :=
      keepsAllButReception_fields (keepsAllButReception_rxChunk _ s)
    exact ⟨hilen, homax⟩
  | _ => exact ⟨rfl, rfl⟩

theorem exec_keeps_hash (h : exec i s = .next t) (hi : i ≠ .sreset) (hfnv : ¬writesHash i) :
    t.hash = s.hash := by
  cases commandEnd_of_exec h with
  | reset hreset => exact absurd hreset hi
  | hashed _ hwrites => exact absurd hwrites hfnv
  | received => exact (keepsAllButReception_fields (keepsAllButReception_rxChunk _ s)).1
  | _ => rfl

/-- A producing command changes OBUF below `OBOUND` alone (10_state.md R27). -/
theorem exec_keeps_obuf_beyond (h : exec i s = .next t) (hi : i ≠ .sreset) {a : Nat}
    (ha : obound s ≤ a) : t.obuf.readByte a = s.obuf.readByte a := by
  cases commandEnd_of_exec h with
  | reset hreset => exact absurd hreset hi
  | failedOutput c =>
    obtain ⟨_, _, _, _, _, hbeyond, _⟩ := failedProducing_raiseProducing c s
    exact hbeyond a ha
  | produced out r _ hlen =>
    obtain ⟨_, _, _, _, _, _, hbeyond, _⟩ := producedOutput_produce (r := r) hlen
    exact hbeyond a ha
  | received =>
    obtain ⟨_, _, _, _, _, hobuf, _⟩ :=
      keepsAllButReception_fields (keepsAllButReception_rxChunk _ s)
    rw [hobuf]
  | _ => rfl

theorem exec_keeps_output (h : exec i s = .next t) (hi : i ≠ .sreset)
    (hprod : isProducing i = false) : t.olen = s.olen ∧ t.obuf = s.obuf := by
  cases commandEnd_of_exec h with
  | reset hreset => exact absurd hreset hi
  | failedOutput _ htrue | produced _ _ htrue => simp [hprod] at htrue
  | received =>
    obtain ⟨_, _, holen, _, _, hobuf, _⟩ :=
      keepsAllButReception_fields (keepsAllButReception_rxChunk _ s)
    exact ⟨holen, hobuf⟩
  | _ => exact ⟨rfl, rfl⟩

end

/-- Settles O58, clause by clause: each is a case analysis over the ways a command can end. -/
theorem whichCommandsWriteWhat : Obligations.WhichCommandsWriteWhat := by
  intro i s t h
  obtain ⟨hibuf, hpending, hresponse, hserved⟩ := exec_keeps_host h
  refine ⟨hibuf, hpending, hresponse, hserved, fun hi => ?_⟩
  obtain ⟨hilen, homax⟩ := exec_keeps_lengths h hi
  refine ⟨hilen, homax, fun hinit hblock hupdate => ?_, fun hrx => ?_,
    fun a ha => exec_keeps_obuf_beyond h hi ha, exec_keeps_output h hi⟩
  · refine exec_keeps_hash h hi ?_
    rintro (heq | heq | ⟨b, heq⟩)
    exacts [hinit heq, hblock heq, hupdate b heq]
  · obtain ⟨⟨_, hrbuf, hrstate, hrlen, hsn, hbin, hvalid, hlen, hmbin⟩, _⟩ :=
      exec_sameForChunk h hrx hi
    exact ⟨hrstate, hrlen, hsn, hbin, hvalid, hlen, hmbin, hrbuf⟩

end Sys2Proof.Proofs
end

section
/-! PROOFS. The statements of 10_state.md: the registers as the host reads and writes them. -/

namespace Sys2Proof.Proofs

open Sys2Proof.Machine

/-! ### A register transaction -/

section

variable {i : Nat} {r : Csr}

theorem performTxn_csrRead (h : csrOfIndex i = some r) (s : State) :
    performTxn (.csrRead i) s = .next (respond (.word (csrValue s r)) s) := by
  simp only [performTxn, h]

theorem performTxn_csrWrite (h : csrOfIndex i = some r) (w : Word) (s : State) :
    performTxn (.csrWrite i w) s = csrWriteEffect r w s := by
  simp only [performTxn, h]

/-- The registers a host write cannot reach: all but `CMD` and the three the host sets
(10_state.md R38). -/
def isReadOnly : Csr → Bool
  | .cmd | .hash | .ilen | .omax => false
  | _ => true

theorem isReadOnly_of_ne (hcmd : r ≠ .cmd) (hhash : r ≠ .hash) (hilen : r ≠ .ilen)
    (homax : r ≠ .omax) : isReadOnly r = true := by
  cases r with
  | cmd => exact absurd rfl hcmd
  | hash => exact absurd rfl hhash
  | ilen => exact absurd rfl hilen
  | omax => exact absurd rfl homax
  | _ => rfl

/-- A write of a read-only register is ignored (10_state.md R43). -/
theorem csrWriteEffect_readOnly (h : isReadOnly r = true) (w : Word) (s : State) :
    csrWriteEffect r w s = .next s := by
  cases r with
  | cmd | hash | ilen | omax => cases h
  | _ => rfl

/-- No register reports what the model keeps of the host. -/
theorem csrValue_acceptTxn (rest : List Txn) (s : State) (r : Csr) :
    csrValue (acceptTxn rest s) r = csrValue s r := by
  cases r <;> rfl

/-- A step with a transaction before it performs that one, whatever else the state's list held. -/
theorem step_cons (x : Txn) (rest : List Txn) (s : State) :
    step { s with pending := x :: rest } = performTxn x (acceptTxn rest s) := rfl

theorem serve_singleton {x : Txn} {s t : State}
    (h : performTxn x (acceptTxn s.pending s) = .next t) : serve [x] s = .next t :=
  serve_cons h

theorem readOnlyRegister_of_csrOfIndex (h : csrOfIndex i = some r) (hro : isReadOnly r = true)
    (s : State) : readOnlyRegister s i r := by
  refine ⟨serve_singleton ?_, fun w => serve_singleton ?_⟩
  · rw [performTxn_csrRead h, csrValue_acceptTxn]
    rfl
  · rw [performTxn_csrWrite h, csrWriteEffect_readOnly hro]
    rfl

end

/-! ### `STATUS` -/

section

variable (s : State)

theorem statusWord_cause : (statusWord s).extractLsb' 0 8 = causeCode s.cause :=
  BitVec.extractLsb'_append_eq_right

theorem statusWord_accumulating : (statusWord s).getLsbD 8 = accumulating s := by
  simp only [statusWord, BitVec.getLsbD_append]
  simp

theorem statusWord_msgValid : (statusWord s).getLsbD 9 = s.msgValid := by
  simp only [statusWord, BitVec.getLsbD_append]
  simp

theorem statusWord_msgBin : (statusWord s).getLsbD 10 = s.msgBin := by
  simp only [statusWord, BitVec.getLsbD_append]
  simp

theorem statusWord_disc : (statusWord s).getLsbD 11 = s.disc := by
  simp only [statusWord, BitVec.getLsbD_append]
  simp

theorem statusWord_high : (statusWord s).extractLsb' 12 20 = 0#20 := by
  unfold statusWord
  iterate 5 rw [BitVec.extractLsb'_append_eq_of_le (by decide)]
  rfl

theorem accumulating_iff : accumulating s = true ↔ s.rstate = .acc := beq_iff_eq

end

theorem statusWord_resetOf (c : Cfg) : statusWord (State.resetOf c) = 0#32 := by
  show 0#20 ++ BitVec.ofBool false ++ BitVec.ofBool false ++ BitVec.ofBool false ++
    BitVec.ofBool false ++ 0#8 = 0#32
  decide

/-- Settles O9, field by field of the word that packs the status. -/
theorem statusRegisterFields : Obligations.StatusRegisterFields := fun s =>
  ⟨readOnlyRegister_of_csrOfIndex rfl rfl s, statusWord_cause s,
    rfl, rfl, rfl, rfl, rfl, rfl, rfl, rfl, rfl,
    by rw [← accumulating_iff, ← statusWord_accumulating]; rfl,
    statusWord_msgValid s, statusWord_msgBin s, statusWord_disc s, statusWord_high s,
    statusWord_resetOf⟩

/-! ### `TAG` -/

/-- Bit `j` of packed bytes is bit `j % 8` of byte `j / 8`. -/
theorem packLittleEndian_getLsbD (bs : List Byte) {j : Nat} (hj : j < 32) :
    (packLittleEndian bs).getLsbD j = (bs.getD (j / 8) 0#8).getLsbD (j % 8) := by
  induction bs generalizing j with
  | nil => simp [packLittleEndian]
  | cons b bs ih =>
    rw [packLittleEndian, BitVec.getLsbD_or, BitVec.getLsbD_shiftLeft, BitVec.getLsbD_setWidth]
    by_cases h8 : j < 8
    · have hdiv : j / 8 = 0 := by omega
      have hmod : j % 8 = j := by omega
      simp [hj, h8, hdiv, hmod]
    · have hdiv : j / 8 = (j - 8) / 8 + 1 := by omega
      have hmod : j % 8 = (j - 8) % 8 := by omega
      rw [hdiv, hmod, List.getD_cons_succ, ← ih (by omega), BitVec.getLsbD_of_ge b j (by omega)]
      simp [hj, h8]

theorem packLittleEndian_byte (bs : List Byte) {i : Nat} (hi : i < 4) :
    (packLittleEndian bs).extractLsb' (8 * i) 8 = bs.getD i 0#8 := by
  apply BitVec.eq_of_getLsbD_eq
  intro k hk
  have hdiv : (8 * i + k) / 8 = i := by omega
  have hmod : (8 * i + k) % 8 = k := by omega
  rw [BitVec.getLsbD_extractLsb', packLittleEndian_getLsbD bs (by omega), hdiv, hmod]
  simp [hk]

theorem tag_length (w : TagWidth) (h : Word) : (tag w h).length = w.bytes := by
  cases w <;> rfl

theorem tag_four_getD (h : Word) {i : Nat} (hi : i < 4) :
    (tag .four h).getD i 0#8 = h.extractLsb' (8 * i) 8 := by
  match i, hi with
  | 0, _ | 1, _ | 2, _ | 3, _ => rfl

/-- The four bytes of a word, packed again, are the word. -/
theorem packLittleEndian_tag_four (h : Word) : packLittleEndian (tag .four h) = h := by
  apply BitVec.eq_of_getLsbD_eq
  intro j hj
  have hmod : j % 8 < 8 := by omega
  have hsplit : 8 * (j / 8) + j % 8 = j := by omega
  rw [packLittleEndian_getLsbD _ hj, tag_four_getD h (by omega), BitVec.getLsbD_extractLsb', hsplit]
  simp [hmod]

theorem bytes_le_four (w : TagWidth) : w.bytes ≤ 4 := by cases w <;> decide

/-- Settles O10: packing puts byte `i` in bits `8 i` and up, and a three-byte tag leaves the top byte
empty. -/
theorem tagRegisterPacksTheTag : Obligations.TagRegisterPacksTheTag := by
  refine fun s => ⟨readOnlyRegister_of_csrOfIndex rfl rfl s,
    fun hfour => ?_, fun i hi => ?_, fun hthree => ?_⟩
  · rw [csrValue, tagWord, hfour, packLittleEndian_tag_four]
  · have hlen : i < (tag s.cfg.tagw s.hash).length := by rwa [tag_length]
    rw [csrValue, tagWord, packLittleEndian_byte _ (Nat.lt_of_lt_of_le hi (bytes_le_four _)),
      List.getElem?_eq_getElem hlen, List.getD_eq_getElem _ _ hlen]
  · rw [csrValue, tagWord, hthree]
    exact packLittleEndian_byte (tag .three s.hash) (i := 3) (by decide)

/-! ### `RXLEN`, `RXSEQ` and `MSGLEN` -/

theorem rxseqWord_expSn (s : State) : (rxseqWord s).extractLsb' 0 5 = s.expSn :=
  BitVec.extractLsb'_append_eq_right

theorem rxseqWord_frameBin (s : State) : (rxseqWord s).getLsbD 5 = s.frameBin := by
  simp only [rxseqWord, BitVec.getLsbD_append]
  simp

theorem rxseqWord_high (s : State) : (rxseqWord s).extractLsb' 6 26 = 0#26 := by
  unfold rxseqWord
  iterate 2 rw [BitVec.extractLsb'_append_eq_of_le (by decide)]
  rfl

theorem rxseqWord_resetOf (c : Cfg) : rxseqWord (State.resetOf c) = 0#32 := by
  show 0#26 ++ BitVec.ofBool false ++ 0#5 = 0#32
  decide

/-- Settles O11 by the fields of `RXSEQ` and the lengths a word holds. -/
theorem reassemblerRegisters : Obligations.ReassemblerRegisters := fun s =>
  ⟨readOnlyRegister_of_csrOfIndex rfl rfl s, lengthRegister_toNat,
    readOnlyRegister_of_csrOfIndex rfl rfl s, rxseqWord_expSn s,
    rxseqWord_frameBin s, rxseqWord_high s,
    readOnlyRegister_of_csrOfIndex rfl rfl s, lengthRegister_toNat⟩

/-! ### The configuration registers -/

section

variable (c : CfgData)

theorem cfg0Word_tagw : ((cfg0Word c).extractLsb' 0 3).toNat = c.tagw.bytes := by
  have hfield : (cfg0Word c).extractLsb' 0 3 = BitVec.ofNat 3 c.tagw.bytes :=
    BitVec.extractLsb'_append_eq_right
  rw [hfield]
  cases c.tagw <;> rfl

theorem cfg0Word_b64En : (cfg0Word c).getLsbD 3 = c.b64En := by
  simp only [cfg0Word, BitVec.getLsbD_append]
  simp

theorem cfg0Word_sentBegin : (cfg0Word c).getLsbD 4 = c.sentBegin.isSome := by
  simp only [cfg0Word, BitVec.getLsbD_append]
  simp

theorem cfg0Word_gap : (cfg0Word c).extractLsb' 5 3 = 0#3 := by
  unfold cfg0Word
  iterate 3 rw [BitVec.extractLsb'_append_eq_of_le (by decide)]
  exact BitVec.extractLsb'_append_eq_right

theorem cfg0Word_n : (cfg0Word c).extractLsb' 8 6 = BitVec.ofNat 6 c.n := by
  unfold cfg0Word
  iterate 4 rw [BitVec.extractLsb'_append_eq_of_le (by decide)]
  exact BitVec.extractLsb'_append_eq_right

theorem cfg0Word_high : (cfg0Word c).extractLsb' 14 18 = 0#18 := by
  unfold cfg0Word
  iterate 5 rw [BitVec.extractLsb'_append_eq_of_le (by decide)]
  rfl

theorem cfg1Word_sentEnd : (cfg1Word c).extractLsb' 0 8 = c.sentEnd :=
  BitVec.extractLsb'_append_eq_right

theorem cfg1Word_sentBegin : (cfg1Word c).extractLsb' 8 8 = c.sentBegin.getD 0#8 := by
  rw [cfg1Word, BitVec.extractLsb'_append_eq_of_le (by decide)]
  exact BitVec.extractLsb'_append_eq_right

theorem cfg1Word_sentEnc : (cfg1Word c).extractLsb' 16 8 = c.sentEnc := by
  unfold cfg1Word
  iterate 2 rw [BitVec.extractLsb'_append_eq_of_le (by decide)]
  exact BitVec.extractLsb'_append_eq_right

theorem cfg1Word_high : (cfg1Word c).extractLsb' 24 8 = 0#8 := by
  unfold cfg1Word
  iterate 3 rw [BitVec.extractLsb'_append_eq_of_le (by decide)]
  rfl

end

/-- `N` is at most 32, so its six bits hold it. -/
theorem cfg0Word_n_toNat (c : Cfg) : ((cfg0Word c.toCfgData).extractLsb' 8 6).toNat = c.n := by
  obtain ⟨_, _, hn, _⟩ := Cfg.bounds c
  rw [cfg0Word_n, BitVec.toNat_ofNat]
  omega

/-- The numbers that `CFG2` to `CFG5` report fit a word (10_state.md R42). -/
theorem csrValue_cfg_toNat (s : State) :
    (csrValue s .cfg2).toNat = s.cfg.m ∧ (csrValue s .cfg3).toNat = s.cfg.mtu ∧
      (csrValue s .cfg4).toNat = s.cfg.ibufSize ∧ (csrValue s .cfg5).toNat = s.cfg.obufSize := by
  obtain ⟨_, _, _, _, _, _, hibuf, hobuf, hm, hmtu⟩ := Cfg.bounds s.cfg
  exact ⟨lenWord_toNat hm, lenWord_toNat hmtu, lenWord_toNat hibuf, lenWord_toNat hobuf⟩

/-- Settles O12, field by field. -/
theorem configurationRegisters : Obligations.ConfigurationRegisters := fun s =>
  ⟨readOnlyRegister_of_csrOfIndex rfl rfl s,
    readOnlyRegister_of_csrOfIndex rfl rfl s,
    readOnlyRegister_of_csrOfIndex rfl rfl s,
    readOnlyRegister_of_csrOfIndex rfl rfl s,
    readOnlyRegister_of_csrOfIndex rfl rfl s,
    readOnlyRegister_of_csrOfIndex rfl rfl s,
    cfg0Word_tagw _, cfg0Word_b64En _, cfg0Word_sentBegin _, cfg0Word_gap _, cfg0Word_n_toNat _,
    cfg0Word_high _, cfg1Word_sentEnd _, cfg1Word_sentBegin _, cfg1Word_sentEnc _,
    cfg1Word_high _, csrValue_cfg_toNat s⟩

/-! ### The table of registers and its reset values -/

theorem csrOfIndex_eq_none {i : Nat} (h : 17 ≤ i) : csrOfIndex i = none := by
  obtain ⟨n, rfl⟩ := Nat.exists_eq_add_of_le' h
  rfl

theorem resetOf_omax_toNat (c : Cfg) : (State.resetOf c).omax.toNat = c.obufSize := by
  obtain ⟨_, _, _, _, _, _, _, hobuf, _⟩ := Cfg.bounds c
  exact lenWord_toNat hobuf

theorem packLittleEndian_tag_three_offset :
    packLittleEndian (tag .three 0x811C9DC5#32) = 0x009D9DC5#32 := by decide

/-- Settles O8: the table is read off `csrOfIndex`, and each transaction is `performTxn` on the
accepted state. -/
theorem registerAccess : Obligations.RegisterAccess := by
  refine ⟨rfl, fun i => csrOfIndex_eq_none, fun s i w r rest hr => ?_, fun s => ?_, fun c => ?_⟩
  · have hwrite : step { s with pending := .csrWrite i w :: rest } =
        csrWriteEffect r w (acceptTxn rest s) := by
      rw [step_cons, performTxn_csrWrite hr]
    refine ⟨?_, ?_, ?_, ?_, ?_, fun hcmd hhash hilen homax => ?_⟩
    · rw [step_cons, performTxn_csrRead hr, csrValue_acceptTxn]
      rfl
    · rintro rfl; exact hwrite
    · rintro rfl; exact hwrite
    · rintro rfl; exact hwrite
    · rintro rfl; exact hwrite
    · rw [hwrite, csrWriteEffect_readOnly (isReadOnly_of_ne hcmd hhash hilen homax)]
      rfl
  · exact ⟨rfl, rfl, rfl, rfl, rfl, rfl, lengthRegister_toNat, lengthRegister_toNat,
      csrValue_cfg_toNat s⟩
  · refine ⟨statusWord_resetOf c, rfl, rfl, ?_, rfl, rfl, resetOf_omax_toNat c, rfl,
      rxseqWord_resetOf c, rfl⟩
    show packLittleEndian (tag c.tagw 0x811C9DC5#32) = _
    cases c.tagw with
    | three => exact packLittleEndian_tag_three_offset
    | four => exact packLittleEndian_tag_four _

/-- Settles O52: the two columns of the table hold by computation, but for `OMAX`, whose value fits
a word. -/
theorem resetValues : Obligations.ResetValues :=
  ⟨fun c => ⟨rfl, rfl, rfl, rfl, rfl, resetOf_omax_toNat c, fun _ => rfl, fun _ => rfl, fun _ => rfl,
      rfl, rfl, rfl, rfl, rfl, rfl, rfl, rfl, rfl⟩,
    by decide, fun _ => rfl⟩

end Sys2Proof.Proofs
end

section
/-! PROOFS. The statements of 10_state.md: the buffers as the host reads and writes them. -/

namespace Sys2Proof.Proofs

open Sys2Proof.Machine

section

variable {s : State} {i : Nat}

theorem serve_ibufRead (hi : i < s.cfg.ibufSize) :
    serve [.ibufRead i] s =
      .next { s with response := some (.byte (inputByte s i)), served := s.served + 1 } :=
  serve_singleton (inBuffer_of_lt hi)

theorem serve_ibufWrite (hi : i < s.cfg.ibufSize) (b : Byte) (ts : List Txn) :
    serve (.ibufWrite i b :: ts) s =
      serve ts { acceptTxn s.pending s with ibuf := s.ibuf.writeByte i b } :=
  serve_cons (inBuffer_of_lt hi)

theorem serve_obufRead (hi : i < s.cfg.obufSize) :
    serve [.obufRead i] s =
      .next { s with
        response := some (.byte (obufReadValue (acceptTxn s.pending s) i))
        served := s.served + 1 } :=
  serve_singleton (inBuffer_of_lt hi)

theorem serve_obufWrite (hi : i < s.cfg.obufSize) (b : Byte) :
    serve [.obufWrite i b] s = .next { s with response := none, served := s.served + 1 } :=
  serve_singleton (inBuffer_of_lt hi)

theorem serve_rbufRead (hi : i < s.cfg.maxf) :
    serve [.rbufRead i] s =
      .next { s with
        response := some (.byte (rbufReadValue (acceptTxn s.pending s) i))
        served := s.served + 1 } :=
  serve_singleton (inBuffer_of_lt hi)

theorem obufReadValue_of_specified {b : Byte} (h : s.obuf.readByte i = some b) :
    obufReadValue s i = b := by
  rw [obufReadValue, h, Option.getD_some]

theorem rbufReadValue_of_message {b : Byte} (hv : s.msgValid = true) (hi : i < s.msgLen)
    (h : s.rbuf.readByte i = some b) : rbufReadValue s i = b := by
  rw [rbufReadValue, if_pos ⟨hv, hi⟩, h, Option.getD_some]

theorem rbufReadValue_of_not_message (h : ¬(s.msgValid = true ∧ i < s.msgLen)) :
    rbufReadValue s i = Config.unspecifiedRead s.served := if_neg h

theorem inputByte_of_written {b : Byte} (h : s.ibuf.readByte i = some b) : inputByte s i = b := by
  rw [inputByte, h, Option.getD_some]

end

/-- Settles O13: the written byte stands at the head of what a read of that index finds, and every
other index reads as before. -/
theorem inputBufferReadsBackWhatTheHostWrote :
    Obligations.InputBufferReadsBackWhatTheHostWrote := by
  intro s i b hi
  have hback : inputByte { acceptTxn s.pending s with ibuf := s.ibuf.writeByte i b } i = b :=
    inputByte_of_written (Memory.readByte_writeByte_self ..)
  refine ⟨serve_ibufRead hi, _, _, serve_ibufWrite hi b [],
    (serve_ibufWrite hi b _).trans (serve_ibufRead hi), by rw [hback], hback, fun j hj => ?_, rfl⟩
  exact (Memory.readByte_writeByte ..).trans (if_neg hj)

/-- Settles O14: a specified byte is the one read, and a write ends as it began. -/
theorem outputBufferIsReadOnlyToTheHost : Obligations.OutputBufferIsReadOnlyToTheHost :=
  fun _ _ c hi => ⟨⟨_, serve_obufRead hi, fun _ hb => obufReadValue_of_specified hb⟩,
    serve_obufWrite hi c⟩

/-- Settles O15: the invariant gives the message byte and its place within RBUF; outside the message
the value read is the free one, which does not mention RBUF. -/
theorem onlyTheDeliveredMessageIsReadable : Obligations.OnlyTheDeliveredMessageIsReadable := by
  refine fun s i => ⟨fun hinv hv hi => ?_, fun hout hsize => ?_⟩
  · obtain ⟨b, hb⟩ := Option.isSome_iff_exists.mp (hinv.messageSpecified hv i hi)
    refine ⟨b, hb, ?_⟩
    rw [serve_rbufRead (Nat.lt_of_lt_of_le hi hinv.msgLenBound),
      rbufReadValue_of_message (s := acceptTxn s.pending s) hv hi hb]
  · refine ⟨Config.unspecifiedRead (s.served + 1), fun m => ?_⟩
    rw [serve_rbufRead (s := { s with rbuf := m }) hsize,
      rbufReadValue_of_not_message (s := acceptTxn s.pending { s with rbuf := m }) hout]
    rfl

end Sys2Proof.Proofs
end

section
/-! PROOFS. The statements of 20_memory.md: an index outside its space, and the input a command's
result depends on. -/

namespace Sys2Proof.Proofs

open Sys2Proof.Machine

/-! ### An index outside its space -/

section

variable {i : Nat} {s : State}

theorem inBuffer_of_le {sp : Space} {size : Nat} (h : size ≤ i) :
    inBuffer sp size i s = .fault (.noSuchIndex sp i) := if_neg (Nat.not_lt.mpr h)

theorem performTxn_csrRead_outside (h : csrOfIndex i = none) :
    performTxn (.csrRead i) s = .fault (.noSuchIndex .csr i) := by
  simp only [performTxn, h]

theorem performTxn_csrWrite_outside (h : csrOfIndex i = none) (w : Word) :
    performTxn (.csrWrite i w) s = .fault (.noSuchIndex .csr i) := by
  simp only [performTxn, h]

end

/-- Settles O16: no register stands at 17 or above, and a buffer's transaction at or past its size
takes the faulting branch of `inBuffer`. -/
theorem indexOutsideItsSpaceStops : Obligations.IndexOutsideItsSpaceStops := by
  intro s i w b rest
  refine ⟨fun hcsr => ?_, fun hibuf => ?_, fun hobuf => ?_, fun hrbuf => ?_⟩
  · have hnone := csrOfIndex_eq_none hcsr
    exact ⟨performTxn_csrRead_outside hnone, performTxn_csrWrite_outside hnone w⟩
  · exact ⟨inBuffer_of_le hibuf, inBuffer_of_le hibuf⟩
  · exact ⟨inBuffer_of_le hobuf, inBuffer_of_le hobuf⟩
  · exact inBuffer_of_le hrbuf

/-! ### Replacing IBUF commutes with the shared operations -/

/-- The same block with `m` in IBUF. -/
def withIbuf (m : Memory) (s : State) : State := { s with ibuf := m }

section

variable {i : Instr} {s : State} {m : Memory}

theorem produceBounded_withIbuf (out : List Byte) (r : Word) :
    produceBounded out r (withIbuf m s) = withIbuf m (produceBounded out r s) := by
  simp only [produceBounded, apply_ite (withIbuf m)]
  rfl

theorem sendChunk_withIbuf (sn : Nat) (first last : Bool) (p : List Byte) :
    sendChunk sn first last p (withIbuf m s) = withIbuf m (sendChunk sn first last p s) :=
  produceBounded_withIbuf _ _

theorem rxComplete_withIbuf (last d : Bool) :
    rxComplete last d (withIbuf m s) = withIbuf m (rxComplete last d s) := by
  cases last <;> rfl

theorem rxFirst_withIbuf (h : Header) (p : List Byte) :
    rxFirst h p (withIbuf m s) = withIbuf m (rxFirst h p s) := by
  simp only [rxFirst, apply_ite (withIbuf m), ← rxComplete_withIbuf]
  rfl

theorem rxNext_withIbuf (h : Header) (p : List Byte) :
    rxNext h p (withIbuf m s) = withIbuf m (rxNext h p s) := by
  simp only [rxNext, apply_ite (withIbuf m), ← rxComplete_withIbuf]
  rfl

theorem rxAccept_withIbuf (blk : List Byte) :
    rxAccept blk (withIbuf m s) = withIbuf m (rxAccept blk s) := by
  simp only [rxAccept, apply_ite (withIbuf m), ← rxFirst_withIbuf, ← rxNext_withIbuf]
  rfl

/-- The chunk comes as an operand, so its effect depends on IBUF no further. -/
theorem rxChunk_withIbuf (w : List Byte) :
    rxChunk w (withIbuf m s) = withIbuf m (rxChunk w s) := by
  have hcfg : (withIbuf m s).cfg = s.cfg := rfl
  unfold rxChunk
  rw [hcfg]
  cases rxBlock s.cfg.toCfgData w with
  | none => rfl
  | some blk => simp only [apply_ite (withIbuf m), ← rxAccept_withIbuf]; rfl

/-- IBUF enters a command through its input string alone, which is read only within the bound
(20_memory.md R72). -/
theorem withInput_withIbuf {onSize onSize' : State} {k k' : List Byte → State}
    (hinput : s.ilen.toNat ≤ s.cfg.ibufSize → inputString (withIbuf m s) = inputString s)
    (hsize : onSize' = withIbuf m onSize) (hk : ∀ input, k' input = withIbuf m (k input)) :
    withInput (withIbuf m s) onSize' k' = withIbuf m (withInput s onSize k) := by
  rcases withInput_cases s onSize k with ⟨hlong, heq⟩ | ⟨hfits, heq⟩ <;> rw [heq]
  · exact (withInput_of_lt (s := withIbuf m s) hlong).trans hsize
  · rw [withInput_of_le (s := withIbuf m s) hfits, hinput hfits, hk]

theorem inputString_congr {t : State} (hlen : t.ilen = s.ilen)
    (h : ∀ a < s.ilen.toNat, inputByte t a = inputByte s a) : inputString t = inputString s := by
  rw [inputString, inputString, hlen]
  exact List.map_congr_left fun a ha => h a (List.mem_range.mp ha)

/-! ### What a command's result depends on -/

theorem exec_withIbuf {t : State} (h : exec i s = .next t)
    (hinput : takesInput i = true → s.ilen.toNat ≤ s.cfg.ibufSize →
      inputString (withIbuf m s) = inputString s) :
    exec i (withIbuf m s) = .next (withIbuf m t) := by
  cases i <;> injection h with h <;> subst h <;> refine congrArg Host.Outcome.next ?_
  case sreset | fnvInit | fnvUpdate | hdrPack | hdrUnpack => rfl
  case fnvBlock | cksValidate | binDetect =>
    exact withInput_withIbuf (hinput rfl) rfl fun _ => rfl
  case cksCopy | b64Enc =>
    exact withInput_withIbuf (hinput rfl) rfl fun _ => produceBounded_withIbuf _ _
  case b64Dec =>
    refine withInput_withIbuf (hinput rfl) rfl fun input => ?_
    cases base64Decode input with
    | none => rfl
    | some out => exact produceBounded_withIbuf _ _
  case chunkTx =>
    refine withInput_withIbuf (hinput rfl) rfl fun p => ?_
    rw [apply_ite (withIbuf m), ← sendChunk_withIbuf]
    rfl
  case chunkRx =>
    refine withInput_withIbuf (hinput rfl) rfl fun w => ?_
    rw [apply_ite (withIbuf m), ← rxChunk_withIbuf]
    rfl

/-- The input bound comes before anything else a command with an input string does. -/
theorem exec_cause_of_input_too_long {t : State} (h : exec i s = .next t)
    (hi : takesInput i = true) (hlong : s.cfg.ibufSize < s.ilen.toNat) : t.cause = .size := by
  cases i <;> injection h with h <;> subst h
  case sreset | fnvInit | fnvUpdate | hdrPack | hdrUnpack => cases hi
  all_goals exact congrArg State.cause (withInput_of_lt hlong)

end

/-- Settles O59: every command commutes with replacing IBUF once the input strings agree, and none
writes IBUF. -/
theorem resultDependsOnTheDeclaredInputOnly :
    Obligations.ResultDependsOnTheDeclaredInputOnly := by
  intro i s m hagree
  obtain ⟨t, ht⟩ := exec_next i s
  obtain ⟨hibuf, _⟩ := exec_keeps_host ht
  exact ⟨t, ht, exec_withIbuf ht fun hi hfits => inputString_congr rfl (hagree hi hfits), hibuf,
    exec_cause_of_input_too_long ht⟩

end Sys2Proof.Proofs
end

section
/-! PROOFS. The statements of 30_encoding.md: the fields of a command word, what each format's mask
selects, and the opcode map. -/

namespace Sys2Proof.Proofs

/-! ### The fields of a command word -/

/-- Bits 31:19, which "must be 0" (30_encoding.md R80). -/
def fieldHigh (w : Word) : BitVec 13 := w.extractLsb' 19 13

section

variable (op a : Byte) (fb ff fl : Bool)

@[simp] theorem fieldOp_assemble : fieldOp (assemble op a fb ff fl) = op :=
  BitVec.extractLsb'_append_eq_right

@[simp] theorem fieldA_assemble : fieldA (assemble op a fb ff fl) = a := by
  rw [fieldA, assemble, BitVec.extractLsb'_append_eq_of_le (by decide)]
  exact BitVec.extractLsb'_append_eq_right

@[simp] theorem fieldFB_assemble : fieldFB (assemble op a fb ff fl) = fb := by
  simp only [fieldFB, assemble, BitVec.getLsbD_append]
  simp

@[simp] theorem fieldFF_assemble : fieldFF (assemble op a fb ff fl) = ff := by
  simp only [fieldFF, assemble, BitVec.getLsbD_append]
  simp

@[simp] theorem fieldFL_assemble : fieldFL (assemble op a fb ff fl) = fl := by
  simp only [fieldFL, assemble, BitVec.getLsbD_append]
  simp

@[simp] theorem fieldHigh_assemble : fieldHigh (assemble op a fb ff fl) = 0#13 :=
  Laws.assemble_high_bits ..

end

section

variable (v w : Word)

@[simp] theorem fieldOp_and : fieldOp (v &&& w) = fieldOp v &&& fieldOp w :=
  BitVec.extractLsb'_and ..

@[simp] theorem fieldA_and : fieldA (v &&& w) = (fieldA v &&& fieldA w) :=
  BitVec.extractLsb'_and ..

@[simp] theorem fieldFB_and : fieldFB (v &&& w) = (fieldFB v && fieldFB w) := BitVec.getLsbD_and

@[simp] theorem fieldFF_and : fieldFF (v &&& w) = (fieldFF v && fieldFF w) := BitVec.getLsbD_and

@[simp] theorem fieldFL_and : fieldFL (v &&& w) = (fieldFL v && fieldFL w) := BitVec.getLsbD_and

@[simp] theorem fieldHigh_and : fieldHigh (v &&& w) = fieldHigh v &&& fieldHigh w :=
  BitVec.extractLsb'_and ..

variable {v w}

theorem getLsbD_eq_of_extractLsb'_eq {start len j : Nat}
    (h : v.extractLsb' start len = w.extractLsb' start len) (hle : start ≤ j)
    (hlt : j < start + len) : v.getLsbD j = w.getLsbD j := by
  have hbit := congrArg (BitVec.getLsbD · (j - start)) h
  have hlt' : j - start < len := by omega
  simpa [BitVec.getLsbD_extractLsb', hlt', Nat.add_sub_cancel' hle] using hbit

/-- The six fields of 30_encoding.md R80 cover the word. -/
theorem word_eq_iff_fields :
    v = w ↔ fieldOp v = fieldOp w ∧ fieldA v = fieldA w ∧ fieldFB v = fieldFB w ∧
      fieldFF v = fieldFF w ∧ fieldFL v = fieldFL w ∧ fieldHigh v = fieldHigh w := by
  refine ⟨fun h => by simp [h], fun ⟨hop, ha, hfb, hff, hfl, hhigh⟩ => ?_⟩
  apply BitVec.eq_of_getLsbD_eq
  intro j hj
  have hfield : j < 8 ∨ 8 ≤ j ∧ j < 16 ∨ j = 16 ∨ j = 17 ∨ j = 18 ∨ 19 ≤ j := by omega
  rcases hfield with h8 | ⟨h8, h16⟩ | rfl | rfl | rfl | h19
  · exact getLsbD_eq_of_extractLsb'_eq hop j.zero_le (by omega)
  · exact getLsbD_eq_of_extractLsb'_eq ha h8 h16
  · exact hfb
  · exact hff
  · exact hfl
  · exact getLsbD_eq_of_extractLsb'_eq hhigh h19 hj

end

/-! ### What each format's mask selects -/

/-- A match value of 30_encoding.md R85: its `OP` and no other bit. -/
def opcodeWord (op : Byte) : Word := assemble op 0#8 false false false

section

variable (op : Byte) (w : Word)

/-- Format `Z` (30_encoding.md R81). -/
theorem and_maskZ_iff : w &&& maskZ = opcodeWord op ↔ assemble op 0#8 false false false = w := by
  rw [show w &&& maskZ = w from BitVec.and_allOnes, opcodeWord, eq_comm]

/-- A mask that keeps all but `A` and some flags selects the words of one `OP` whose kept flags are
0. -/
theorem and_eq_opcodeWord_iff {m : Word} (hop : fieldOp m = BitVec.allOnes 8)
    (hA : fieldA m = 0#8) (hhigh : fieldHigh m = BitVec.allOnes 13) :
    w &&& m = opcodeWord op ↔ assemble op (fieldA w) (!fieldFB m && fieldFB w)
      (!fieldFF m && fieldFF w) (!fieldFL m && fieldFL w) = w := by
  have hflag : ∀ kept b : Bool, (b && kept) = false ↔ b = (!kept && b) := by decide
  rw [eq_comm (b := w)]
  simp only [word_eq_iff_fields, opcodeWord, fieldOp_and, fieldA_and, fieldFB_and,
    fieldFF_and, fieldFL_and, fieldHigh_and, fieldOp_assemble, fieldA_assemble, fieldFB_assemble,
    fieldFF_assemble, fieldFL_assemble, fieldHigh_assemble, hop, hA, hhigh, hflag,
    BitVec.and_allOnes, BitVec.and_zero]

/-- Format `A` (30_encoding.md R82). -/
theorem and_maskA_iff :
    w &&& maskA = opcodeWord op ↔ assemble op (fieldA w) false false false = w :=
  and_eq_opcodeWord_iff op w rfl rfl rfl

/-- Format `AF` (30_encoding.md R83). -/
theorem and_maskAF_iff : w &&& maskAF = opcodeWord op ↔
    assemble op (fieldA w) (fieldFB w) (fieldFF w) (fieldFL w) = w :=
  and_eq_opcodeWord_iff op w rfl rfl rfl

/-- Format `AF` with `FB = 0`, of `CHUNK_TX` (30_encoding.md R83). -/
theorem and_maskAFnoFB_iff : w &&& maskAFnoFB = opcodeWord op ↔
    assemble op (fieldA w) false (fieldFF w) (fieldFL w) = w :=
  and_eq_opcodeWord_iff op w rfl rfl rfl

end

/-! ### The rows of the opcode map -/

section

variable {r : OpcodeRow} {w : Word} {i : Instr}

theorem selects_iff : r.selects w = true ↔ w &&& r.mask = r.value := beq_iff_eq

/-- A row selects exactly the words that are the encoding of the command it reads from them. -/
theorem selects_iff_encode_operands (hr : r ∈ opcodeTable) :
    r.selects w = true ↔ encode (r.operands w) = w := by
  rw [selects_iff]
  revert r
  simp only [opcodeTable, List.forall_mem_cons]
  refine ⟨and_maskZ_iff 0x01#8 w, and_maskZ_iff 0x10#8 w, and_maskA_iff 0x11#8 w,
    and_maskZ_iff 0x12#8 w, and_maskZ_iff 0x13#8 w, and_maskZ_iff 0x14#8 w, ?hdrPack,
    and_maskA_iff 0x21#8 w, and_maskZ_iff 0x30#8 w, and_maskZ_iff 0x31#8 w, and_maskZ_iff 0x32#8 w,
    ?chunkTx, and_maskZ_iff 0x41#8 w, nofun⟩
  all_goals rw [encode, BitVec.ofNat_toNat, BitVec.setWidth_eq]
  case hdrPack => exact and_maskAF_iff 0x20#8 w
  case chunkTx => exact and_maskAFnoFB_iff 0x40#8 w

/-- Only a sequence number can fail to fit its field, and field `A` yields one below 256. -/
theorem wf_operands (hr : r ∈ opcodeTable) : (r.operands w).wf = true := by
  revert r
  simp only [opcodeTable, List.forall_mem_cons]
  exact ⟨rfl, rfl, rfl, rfl, rfl, rfl, decide_eq_true (fieldA w).isLt, rfl, rfl, rfl, rfl,
    decide_eq_true (fieldA w).isLt, rfl, nofun⟩

/-- Every command has a row, which reads the command's operands back from its encoding. -/
theorem exists_row_of_wf (h : i.wf = true) : ∃ r ∈ opcodeTable, r.operands (encode i) = i := by
  have hsn {sn : Nat} (h : sn < 256) : (BitVec.ofNat 8 sn).toNat = sn := Nat.mod_eq_of_lt h
  cases i with
  | sreset => exact ⟨opcodeTable[0], List.getElem_mem _, rfl⟩
  | fnvInit => exact ⟨opcodeTable[1], List.getElem_mem _, rfl⟩
  | fnvUpdate b =>
    exact ⟨opcodeTable[2], List.getElem_mem _, congrArg Instr.fnvUpdate (fieldA_assemble ..)⟩
  | fnvBlock => exact ⟨opcodeTable[3], List.getElem_mem _, rfl⟩
  | cksCopy => exact ⟨opcodeTable[4], List.getElem_mem _, rfl⟩
  | cksValidate => exact ⟨opcodeTable[5], List.getElem_mem _, rfl⟩
  | hdrPack sn bin first last =>
    refine ⟨opcodeTable[6], List.getElem_mem _, ?_⟩
    simp [opcodeTable, encode, hsn (of_decide_eq_true h)]
  | hdrUnpack b =>
    exact ⟨opcodeTable[7], List.getElem_mem _, congrArg Instr.hdrUnpack (fieldA_assemble ..)⟩
  | binDetect => exact ⟨opcodeTable[8], List.getElem_mem _, rfl⟩
  | b64Enc => exact ⟨opcodeTable[9], List.getElem_mem _, rfl⟩
  | b64Dec => exact ⟨opcodeTable[10], List.getElem_mem _, rfl⟩
  | chunkTx sn first last =>
    refine ⟨opcodeTable[11], List.getElem_mem _, ?_⟩
    simp [opcodeTable, encode, hsn (of_decide_eq_true h)]
  | chunkRx => exact ⟨opcodeTable[12], List.getElem_mem _, rfl⟩

/-- Every mask keeps `OP`. -/
theorem fieldOp_of_selects (hr : r ∈ opcodeTable) (h : r.selects w = true) :
    fieldOp w = fieldOp r.value := by
  have hmask : ∀ r ∈ opcodeTable, fieldOp r.mask = BitVec.allOnes 8 := by decide
  rw [← selects_iff.mp h, fieldOp_and, hmask r hr, BitVec.and_allOnes]

theorem opcodes_nodup : (opcodeTable.map fun r => fieldOp r.value).Nodup := by decide

/-- A row with the word's `OP` is the only one that can select it. -/
theorem row_eq_of_selects {q : OpcodeRow} (hr : r ∈ opcodeTable) (hq : q ∈ opcodeTable)
    (hop : fieldOp w = fieldOp r.value) (hsel : q.selects w = true) : r = q :=
  List.inj_on_of_nodup_map opcodes_nodup hr hq (hop.symm.trans (fieldOp_of_selects hq hsel))

/-! ### Decoding -/

theorem mem_and_selects_of_find? (h : opcodeTable.find? (OpcodeRow.selects · w) = some r) :
    r ∈ opcodeTable ∧ r.selects w = true :=
  ⟨List.mem_of_find?_eq_some h, List.find?_some (p := (OpcodeRow.selects · w)) h⟩

theorem exists_row_of_decodeWord (h : decodeWord w = .ok i) :
    ∃ r ∈ opcodeTable, r.selects w = true ∧ r.operands w = i := by
  unfold decodeWord at h
  split at h
  next r hfind =>
    obtain ⟨hr, hsel⟩ := mem_and_selects_of_find? hfind
    exact ⟨r, hr, hsel, Except.ok.inj h⟩
  next => nomatch h

theorem decodeWord_of_selects (hr : r ∈ opcodeTable) (h : r.selects w = true) :
    decodeWord w = .ok (r.operands w) := by
  unfold decodeWord
  split
  next q hfind =>
    obtain ⟨hq, hqsel⟩ := mem_and_selects_of_find? hfind
    rw [row_eq_of_selects hr hq (fieldOp_of_selects hr h) hqsel]
  next hnone => exact absurd h (List.find?_eq_none.mp hnone r hr)

theorem decodeWord_encode (h : i.wf = true) : decodeWord (encode i) = .ok i := by
  obtain ⟨r, hr, hi⟩ := exists_row_of_wf h
  have hsel : r.selects (encode i) = true := (selects_iff_encode_operands hr).mpr (by rw [hi])
  rw [decodeWord_of_selects hr hsel, hi]

theorem encode_of_decodeWord (h : decodeWord w = .ok i) : i.wf = true ∧ encode i = w := by
  obtain ⟨r, hr, hsel, rfl⟩ := exists_row_of_decodeWord h
  exact ⟨wf_operands hr, (selects_iff_encode_operands hr).mp hsel⟩

/-- A well-formed command has one word. -/
theorem decodeWord_eq_ok_iff (hwf : i.wf = true) : decodeWord w = .ok i ↔ w = encode i :=
  ⟨fun h => (encode_of_decodeWord h).2.symm, fun h => h ▸ decodeWord_encode hwf⟩

/-- A row matches every word that decodes to a command with the row's `OP`. -/
theorem match_of_decodeWord (hr : r ∈ opcodeTable) (h : decodeWord w = .ok i)
    (hop : fieldOp (encode i) = fieldOp r.value) : w &&& r.mask = r.value := by
  obtain ⟨q, hq, hsel, -⟩ := exists_row_of_decodeWord h
  obtain ⟨-, rfl⟩ := encode_of_decodeWord h
  exact selects_iff.mp (row_eq_of_selects hr hq hop hsel ▸ hsel)

theorem decodeWord_of_match (hr : r ∈ opcodeTable) (h : w &&& r.mask = r.value) :
    decodeWord w = .ok (r.operands w) :=
  decodeWord_of_selects hr (selects_iff.mpr h)

end

/-- Settles O1: a command's row selects its encoding and, no other row doing so, is the one the
decoder finds. -/
theorem decodeOfEncodedCommand : Obligations.DecodeOfEncodedCommand :=
  fun _ => decodeWord_encode

/-- Settles O2: the row that decodes a word selects only encodings of what it reads from them. -/
theorem encodeOfDecodedWord : Obligations.EncodeOfDecodedWord :=
  fun _ _ => encode_of_decodeWord

/-- Settles O3: a command without operands has its one word, one with operands its row, and rows
differ in their `OP`. -/
theorem legalWordsMatchTheOpcodeMap : Obligations.LegalWordsMatchTheOpcodeMap := by
  refine ⟨fun w => ⟨decodeWord_eq_ok_iff rfl, decodeWord_eq_ok_iff rfl, ?fnvUpdate,
    decodeWord_eq_ok_iff rfl, decodeWord_eq_ok_iff rfl, decodeWord_eq_ok_iff rfl, ?hdrPack,
    ?hdrUnpack, decodeWord_eq_ok_iff rfl, decodeWord_eq_ok_iff rfl, decodeWord_eq_ok_iff rfl,
    ?chunkTx, decodeWord_eq_ok_iff rfl⟩, ?disjoint⟩
  case fnvUpdate =>
    have hr : opcodeTable[2] ∈ opcodeTable := List.getElem_mem _
    exact ⟨fun ⟨_, h⟩ => match_of_decodeWord hr h (fieldOp_assemble ..),
      fun h => ⟨_, decodeWord_of_match hr h⟩⟩
  case hdrPack =>
    have hr : opcodeTable[6] ∈ opcodeTable := List.getElem_mem _
    exact ⟨fun ⟨_, _, _, _, h⟩ => match_of_decodeWord hr h (fieldOp_assemble ..),
      fun h => ⟨_, _, _, _, decodeWord_of_match hr h⟩⟩
  case hdrUnpack =>
    have hr : opcodeTable[7] ∈ opcodeTable := List.getElem_mem _
    exact ⟨fun ⟨_, h⟩ => match_of_decodeWord hr h (fieldOp_assemble ..),
      fun h => ⟨_, decodeWord_of_match hr h⟩⟩
  case chunkTx =>
    have hr : opcodeTable[11] ∈ opcodeTable := List.getElem_mem _
    exact ⟨fun ⟨_, _, _, h⟩ => match_of_decodeWord hr h (fieldOp_assemble ..),
      fun h => ⟨_, _, _, decodeWord_of_match hr h⟩⟩
  case disjoint =>
    refine (List.pairwise_map.mp opcodes_nodup).imp_of_mem fun hr hq hne w ⟨hrw, hqw⟩ => hne ?_
    exact (fieldOp_of_selects hr hrw).symm.trans (fieldOp_of_selects hq hqw)

end Sys2Proof.Proofs
end

section
/-! PROOFS. The statements of 40_checksum.md: the byte step and the fold, the tag, validation, and
the commands of the Checksum Engine. -/

namespace Sys2Proof.Proofs

open Sys2Proof.Machine

/-! ### The byte step and the fold -/

theorem fnvUp_eq_ofNat (b : Byte) (h : Word) :
    fnvUp b h = BitVec.ofNat 32 ((h.toNat ^^^ b.toNat) * 16777619) := by
  rw [fnvUp, fnvPrime, BitVec.ofNat_mul, BitVec.ofNat_xor, BitVec.ofNat_toNat, BitVec.ofNat_toNat,
    BitVec.setWidth_eq]

/-- The byte step on the low byte alone: 0x93 is the low byte of the prime. -/
theorem fnvUp_setWidth (b : Byte) (h : Word) :
    (fnvUp b h).setWidth 8 = (h.setWidth 8 ^^^ b) * 0x93#8 := by
  rw [fnvUp, BitVec.setWidth_mul _ _ (by decide), BitVec.setWidth_xor,
    BitVec.setWidth_setWidth_of_le _ (by decide), BitVec.setWidth_eq]
  rfl

/-- Multiplying a byte by 0x93 loses nothing, because 0x93 is odd: 0x9B is its inverse. -/
theorem mul_prime_low_injective {x y : Byte} (h : x * 0x93#8 = y * 0x93#8) : x = y := by
  have inverse (z : Byte) : z * 0x93#8 * 0x9B#8 = z := by
    rw [BitVec.mul_assoc, show 0x93#8 * 0x9B#8 = 1#8 from by decide, BitVec.mul_one]
  rw [← inverse x, h, inverse]

theorem xor_eq_of_fnvUp_low_eq {b c : Byte} {h k : Word}
    (heq : (fnvUp b h).setWidth 8 = (fnvUp c k).setWidth 8) :
    h.setWidth 8 ^^^ b = k.setWidth 8 ^^^ c := by
  rw [fnvUp_setWidth, fnvUp_setWidth] at heq
  exact mul_prime_low_injective heq

theorem fnvBuf_nil (h : Word) : fnvBuf [] h = h := rfl

/-- An equation of functions, because the kernel compares `fnvBuf (b :: d) h` with
`fnvBuf d (fnvUp b h)` by their last arguments first, which multiplies out the prime. -/
theorem fnvBuf_cons_fun (b : Byte) (d : List Byte) :
    fnvBuf (b :: d) = fun h => fnvBuf d (fnvUp b h) := rfl

theorem fnvBuf_cons (b : Byte) (d : List Byte) (h : Word) :
    fnvBuf (b :: d) h = fnvBuf d (fnvUp b h) := congrFun (fnvBuf_cons_fun b d) h

theorem fnvBuf_append (a b : List Byte) (h : Word) :
    fnvBuf (a ++ b) h = fnvBuf b (fnvBuf a h) := by
  induction a generalizing h with
  | nil => rw [List.nil_append, fnvBuf_nil]
  | cons x a ih => rw [List.cons_append, fnvBuf_cons, fnvBuf_cons, ih]

/-- Folding a string in keeps different low bytes of the accumulator different. -/
theorem low_eq_of_fnvBuf_low_eq {d : List Byte} {h k : Word}
    (heq : (fnvBuf d h).setWidth 8 = (fnvBuf d k).setWidth 8) : h.setWidth 8 = k.setWidth 8 := by
  induction d generalizing h k with
  | nil => exact heq
  | cons b d ih =>
    rw [fnvBuf_cons, fnvBuf_cons] at heq
    exact (BitVec.xor_left_inj b).mp (xor_eq_of_fnvUp_low_eq (ih heq))

/-- Replacing a byte by another one changes the low byte of the fold (40_checksum.md R122). -/
theorem getElem?_of_fnvBuf_set_low_eq {d : List Byte} {i : Nat} {b : Byte} {h : Word}
    (hi : i < d.length)
    (heq : (fnvBuf (d.set i b) h).setWidth 8 = (fnvBuf d h).setWidth 8) : d[i]? = some b := by
  induction d generalizing i h with
  | nil => cases hi
  | cons x d ih =>
    cases i with
    | zero =>
      rw [List.set_cons_zero, fnvBuf_cons, fnvBuf_cons] at heq
      have hxor := xor_eq_of_fnvUp_low_eq (low_eq_of_fnvBuf_low_eq heq)
      rw [(BitVec.xor_right_inj _).mp hxor, List.getElem?_cons_zero]
    | succ i =>
      rw [List.set_cons_succ, fnvBuf_cons, fnvBuf_cons] at heq
      rw [List.getElem?_cons_succ]
      exact ih (Nat.lt_of_succ_lt_succ hi) heq

/-! ### The tag -/

theorem byte_toNat (h : Word) (i : Nat) : (h.extractLsb' i 8).toNat = h.toNat / 2 ^ i % 256 := by
  rw [BitVec.extractLsb'_toNat, Nat.shiftRight_eq_div_pow]

theorem top_byte_mod (h : Word) : h.toNat / 2 ^ 24 % 256 = h.toNat / 2 ^ 24 :=
  Nat.mod_eq_of_lt (by omega)

/-- Settles O17: a byte of a word is a quotient by a power of two modulo 256, and the top one needs
no reduction. -/
theorem tagBytes : Obligations.TagBytes := by
  refine fun h => ⟨?_, ?_⟩ <;>
    simp only [tag, List.map_cons, List.map_nil, BitVec.toNat_xor, byte_toNat, top_byte_mod,
      pow_zero, Nat.div_one]

/-- With either width the first byte of a tag is the low byte of the hash. -/
theorem tag_head? (w : TagWidth) (h : Word) : (tag w h).head? = some (h.setWidth 8) := by
  cases w <;> simp [tag, BitVec.setWidth_eq_extractLsb']

theorem low_eq_of_tag_eq {w : TagWidth} {h k : Word} (heq : tag w h = tag w k) :
    h.setWidth 8 = k.setWidth 8 := by
  have hhead := congrArg List.head? heq
  rw [tag_head?, tag_head?] at hhead
  exact Option.some.inj hhead

/-! ### Validation -/

section

variable {w : TagWidth} {d t s : List Byte}

theorem validate_append (ht : t.length = w.bytes) :
    validate w (d ++ t) = true ↔ d ≠ [] ∧ tag w (fnvBuf d fnvOffset) = t := by
  have hsplit : (d ++ t).length - w.bytes = d.length := by rw [List.length_append, ht]; omega
  by_cases hd : d = []
  · simp [validate, hd, ht]
  · have hlen : ¬(d ++ t).length ≤ w.bytes := by
      have := List.length_pos_iff.mpr hd
      rw [List.length_append, ht]
      omega
    rw [validate, if_neg hlen, hsplit, List.take_left, List.drop_left, beq_iff_eq]
    exact (and_iff_right hd).symm

theorem validate_append_tag :
    validate w (d ++ tag w (fnvBuf d fnvOffset)) = true ↔ d ≠ [] := by
  rw [validate_append (tag_length w _)]
  exact and_iff_left rfl

theorem exists_data_of_validate (h : validate w s = true) :
    ∃ d, d ≠ [] ∧ s = d ++ tag w (fnvBuf d fnvOffset) := by
  have hlen : ¬s.length ≤ w.bytes := fun hle => by simp [validate, hle] at h
  have hsplit := List.take_append_drop (s.length - w.bytes) s
  have hdrop : (s.drop (s.length - w.bytes)).length = w.bytes := by
    rw [List.length_drop]
    omega
  rw [← hsplit, validate_append hdrop] at h
  obtain ⟨hne, htag⟩ := h
  exact ⟨_, hne, by rw [htag, hsplit]⟩

end

/-- Settles O23: a string longer than a tag splits in one way into data and as many bytes as a tag
has. -/
theorem validateComparesTheTrailingTag : Obligations.ValidateComparesTheTrailingTag := by
  refine fun w s => ⟨exists_data_of_validate, ?_⟩
  rintro ⟨d, hd, rfl⟩
  exact validate_append_tag.mpr hd

/-- Settles O25: another data byte changes the low byte of the hash, which is the first byte of the
tag; another tag byte leaves the data, and so the tag it must have. -/
theorem oneByteCorruptionIsDetected : Obligations.OneByteCorruptionIsDetected := by
  intro w s i b hvalid hi hne
  obtain ⟨d, -, rfl⟩ := exists_data_of_validate hvalid
  refine Bool.eq_false_iff.mpr fun hbad => hne ?_
  rcases Nat.lt_or_ge i d.length with hdata | htag
  · rw [List.set_append_left _ _ hdata, validate_append (tag_length w _)] at hbad
    obtain ⟨-, hsame⟩ := hbad
    rw [List.getElem?_append_left hdata]
    exact getElem?_of_fnvBuf_set_low_eq hdata (low_eq_of_tag_eq hsame)
  · rw [List.set_append_right _ _ htag,
      validate_append (by rw [List.length_set, tag_length])] at hbad
    obtain ⟨-, hsame⟩ := hbad
    rw [List.length_append] at hi
    rw [List.getElem?_append_right htag, hsame, List.getElem?_set_self (by omega)]

/-! ### The commands that set `HASH` -/

/-- Settles O18: nothing stands between the word and the effect of `FNV_INIT`. -/
theorem fnvInitSetsTheOffsetBasis : Obligations.FnvInitSetsTheOffsetBasis :=
  ⟨decodeWord_encode (i := .fnvInit) rfl, fun _ => rfl⟩

/-- A command word of format `A` (30_encoding.md R82). -/
theorem assemble_eq_or (op a : Byte) :
    assemble op a false false false = op.setWidth 32 ||| (a.setWidth 32 <<< 8) := by
  apply BitVec.eq_of_getLsbD_eq
  intro j hj
  simp only [assemble, BitVec.getLsbD_append, BitVec.getLsbD_or, BitVec.getLsbD_shiftLeft,
    BitVec.getLsbD_setWidth]
  by_cases hop : j < 8
  · simp [hop, hj]
  · have hzero : op.getLsbD j = false := BitVec.getLsbD_of_ge op j (by omega)
    have hj' : j - 8 < 32 := by omega
    by_cases ha : j - 8 < 8
    · simp [hop, ha, hj, hj', hzero]
    · have hzero' : a.getLsbD (j - 8) = false := BitVec.getLsbD_of_ge a _ (by omega)
      simp [hop, ha, hzero, hzero']

theorem encode_fnvUpdate (b : Byte) :
    encode (.fnvUpdate b) = 0x00000011#32 ||| (b.setWidth 32 <<< 8) := assemble_eq_or 0x11#8 b

/-- Settles O19: the byte step on words is the one on integers, reduced modulo 2³². -/
theorem fnvUpdateFoldsOneByte : Obligations.FnvUpdateFoldsOneByte := by
  refine fun b => ⟨?_, fun s => ?_⟩
  · rw [← encode_fnvUpdate, decodeWord_encode rfl]
  · rw [← fnvUp_eq_ofNat]
    rfl

theorem exec_fnvUpdate (b : Byte) (s : State) :
    exec (.fnvUpdate b) s = .next (setHash (fnvUp b s.hash) s) := rfl

section

variable {s : State}

theorem exec_fnvBlock_of_le (h : s.ilen.toNat ≤ s.cfg.ibufSize) :
    exec .fnvBlock s = .next (setHash (fnvBuf (inputString s) s.hash) s) :=
  congrArg Host.Outcome.next (withInput_of_le h)

theorem exec_fnvBlock_of_lt (h : s.cfg.ibufSize < s.ilen.toNat) :
    exec .fnvBlock s = .next (raise .size false s) :=
  congrArg Host.Outcome.next (withInput_of_lt h)

end

/-- Settles O20: the two ends of the input check. -/
theorem fnvBlockFoldsTheInput : Obligations.FnvBlockFoldsTheInput := by
  refine ⟨decodeWord_encode (i := .fnvBlock) rfl, fun s => ?_⟩
  split
  · next hle => exact exec_fnvBlock_of_le hle
  · next hlt => exact exec_fnvBlock_of_lt (Nat.lt_of_not_le hlt)

/-! ### The commands that use the tag -/

section

variable {s : State}

/-- What `CKS_COPY` outputs (40_checksum.md R118). -/
def taggedInput (s : State) : List Byte :=
  inputString s ++ tag s.cfg.tagw (fnvBuf (inputString s) fnvOffset)

theorem taggedInput_length (s : State) :
    (taggedInput s).length = s.ilen.toNat + s.cfg.tagw.bytes := by
  rw [taggedInput, List.length_append, inputString_length, tag_length]

theorem olen_of_producedOutput {out : List Byte} {r : Word} {t : State}
    (h : producedOutput out r s t) : t.olen.toNat = out.length := by
  obtain ⟨-, -, -, holen, -⟩ := h
  exact holen

theorem inputString_ne_nil : inputString s ≠ [] ↔ 1 ≤ s.ilen.toNat := by
  rw [← List.length_pos_iff, inputString_length, Nat.succ_le_iff]

theorem exec_cksCopy_of_fits (hin : s.ilen.toNat ≤ s.cfg.ibufSize)
    (hout : s.ilen.toNat + s.cfg.tagw.bytes ≤ obound s) :
    exec .cksCopy s =
      .next (produce (taggedInput s) (fnvBuf (inputString s) fnvOffset) s) := by
  have hlen : ¬obound s < (taggedInput s).length := by
    rw [taggedInput_length]
    omega
  exact congrArg Host.Outcome.next ((withInput_of_le hin).trans (if_neg hlen))

theorem exec_cksCopy_of_not_fits
    (h : ¬(s.ilen.toNat ≤ s.cfg.ibufSize ∧ s.ilen.toNat + s.cfg.tagw.bytes ≤ obound s)) :
    exec .cksCopy s = .next (raiseProducing .size s) := by
  refine congrArg Host.Outcome.next ?_
  rcases Nat.lt_or_ge s.cfg.ibufSize s.ilen.toNat with hin | hin
  · exact withInput_of_lt hin
  · have hlen : obound s < (taggedInput s).length := by
      rw [taggedInput_length]
      omega
    exact (withInput_of_le hin).trans (if_pos hlen)

theorem exec_cksValidate_of_le (h : s.ilen.toNat ≤ s.cfg.ibufSize) :
    exec .cksValidate s =
      .next (succeed (boolWord (validate s.cfg.tagw (inputString s))) false s) :=
  congrArg Host.Outcome.next (withInput_of_le h)

theorem exec_cksValidate_of_lt (h : s.cfg.ibufSize < s.ilen.toNat) :
    exec .cksValidate s = .next (raise .size false s) :=
  congrArg Host.Outcome.next (withInput_of_lt h)

end

/-- Settles O21: the output is `taggedInput`, whose length decides between the two ends, and which
validates by `validate_append_tag`. -/
theorem cksCopyAppendsTheTag : Obligations.CksCopyAppendsTheTag := by
  refine ⟨decodeWord_encode (i := .cksCopy) rfl, fun s => ?_⟩
  split
  · next hfits =>
    obtain ⟨hin, hout⟩ := hfits
    have hproduced : producedOutput (taggedInput s) (fnvBuf (inputString s) fnvOffset) s _ :=
      producedOutput_produce (by rwa [taggedInput_length])
    exact ⟨_, exec_cksCopy_of_fits hin hout, hproduced,
      (olen_of_producedOutput hproduced).trans (taggedInput_length s),
      validate_append_tag.trans inputString_ne_nil⟩
  · next hfits =>
    exact ⟨_, exec_cksCopy_of_not_fits hfits, failedProducing_raiseProducing .size s⟩

/-- Settles O22: the two ends of the input check; a verdict of either kind ends in success. -/
theorem cksValidateGivesTheVerdict : Obligations.CksValidateGivesTheVerdict := by
  refine ⟨decodeWord_encode (i := .cksValidate) rfl, fun s => ?_⟩
  split
  · next hle => exact ⟨_, exec_cksValidate_of_le hle, succeededPlain_succeed _ s⟩
  · next hlt =>
    exact ⟨_, exec_cksValidate_of_lt (Nat.lt_of_not_le hlt), failedPlain_raise .size s⟩

/-! ### Folds made by scripts -/

/-- The block shows `h` as the fold so far: in `HASH`, and as the result of a command that
succeeded. -/
def showsFold (h : Word) (s : State) : Prop := s.hash = h ∧ s.res = h ∧ s.cause = .none

theorem showsFold_setHash (h : Word) (s : State) : showsFold h (setHash h s) := ⟨rfl, rfl, rfl⟩

/-- A write of `CMD` with the word of a well-formed command runs it (45_system.md R231). -/
theorem serve_command {i : Instr} {s t : State} (hwf : i.wf = true)
    (h : exec i (acceptTxn s.pending s) = .next t) (ts : List Txn) :
    serve (commandTxn i :: ts) s = serve ts t := by
  refine serve_cons ?_
  rw [commandTxn, performTxn_csrWrite rfl, csrWriteEffect, issueCommand, decodeWord_encode hwf]
  exact h

theorem hash_of_sameButInput {s t : State} (h : sameButInput s t) : t.hash = s.hash := by
  rw [← h]

theorem cfg_of_sameButInput {s t : State} (h : sameButInput s t) : t.cfg = s.cfg := by
  rw [← h]

theorem serve_fnvUpdates {bs : List Byte} {h : Word} {s : State} (hs : showsFold h s) :
    ∃ t, serve (bs.map fun b => commandTxn (.fnvUpdate b)) s = .next t ∧
      showsFold (fnvBuf bs h) t := by
  induction bs generalizing h s with
  | nil => exact ⟨s, rfl, hs⟩
  | cons b bs ih =>
    obtain ⟨rfl, -, -⟩ := hs
    rw [List.map_cons, serve_command rfl (exec_fnvUpdate b _), fnvBuf_cons]
    exact ih (showsFold_setHash _ _)

theorem inputString_acceptTxn (rest : List Txn) (s : State) :
    inputString (acceptTxn rest s) = inputString s := rfl

/-- One piece: filled into IBUF, it is the input string `FNV_BLOCK` folds. -/
theorem serve_fnvBlock {p : List Byte} {h : Word} {s : State} (hs : showsFold h s)
    (hp : p.length ≤ s.cfg.ibufSize) :
    ∃ t, serve (ibufScript p ++ [commandTxn .fnvBlock]) s = .next t ∧
      showsFold (fnvBuf p h) t ∧ t.cfg = s.cfg := by
  obtain ⟨u, hserve, hinput, -, hframe⟩ := serve_ibufScript hp
  obtain ⟨rfl, -, -⟩ := hs
  have hhash : u.hash = s.hash := hash_of_sameButInput hframe
  have hcfg : u.cfg = s.cfg := cfg_of_sameButInput hframe
  have hfit : u.ilen.toNat ≤ u.cfg.ibufSize := by
    rwa [← inputString_length, hinput, hcfg]
  have hexec := exec_fnvBlock_of_le (s := acceptTxn u.pending u) hfit
  rw [inputString_acceptTxn, acceptTxn_hash, hinput, hhash] at hexec
  exact ⟨_, (serve_append hserve).trans (serve_command rfl hexec []), showsFold_setHash _ _, hcfg⟩

theorem serve_fnvBlocks {pieces : List (List Byte)} {h : Word} {s : State}
    (hs : showsFold h s) (hfit : ∀ p ∈ pieces, p.length ≤ s.cfg.ibufSize) :
    ∃ t, serve (pieces.flatMap fun p => ibufScript p ++ [commandTxn .fnvBlock]) s = .next t ∧
      showsFold (fnvBuf pieces.flatten h) t := by
  induction pieces generalizing h s with
  | nil => exact ⟨s, rfl, hs⟩
  | cons p pieces ih =>
    obtain ⟨hp, hrest⟩ := List.forall_mem_cons.mp hfit
    obtain ⟨u, hserve, hu, hcfg⟩ := serve_fnvBlock hs hp
    rw [List.flatMap_cons, serve_append hserve, List.flatten_cons, fnvBuf_append]
    exact ih hu (by rwa [hcfg])

/-- A script that begins with `FNV_INIT` continues from a block that shows the offset basis. -/
theorem serve_fnvInit_cons (ts : List Txn) (s : State) :
    serve (commandTxn .fnvInit :: ts) s = serve ts (setHash fnvOffset (acceptTxn s.pending s)) :=
  serve_command (i := .fnvInit) rfl rfl ts

/-- Settles O24: both scripts start at the offset basis and keep the fold so far on show. -/
theorem foldsCompose : Obligations.FoldsCompose := by
  refine ⟨fnvBuf_append, fun s bs => ?_, fun s pieces hfit => ?_⟩
  all_goals have hinit := showsFold_setHash fnvOffset (acceptTxn s.pending s)
  · obtain ⟨t, hserve, hhash, hres, hcause⟩ := serve_fnvUpdates (bs := bs) hinit
    exact ⟨t, (serve_fnvInit_cons _ s).trans hserve, hhash, hres.trans hhash.symm, hcause⟩
  · obtain ⟨t, hserve, hhash, hres, hcause⟩ := serve_fnvBlocks hinit hfit
    exact ⟨t, (serve_fnvInit_cons _ s).trans hserve, hhash, hres.trans hhash.symm, hcause⟩

end Sys2Proof.Proofs
end

section
/-! PROOFS. The statements of 41_header.md: the word of a command with a sequence number and flags,
the header byte as its fields side by side, and the commands of the Chunk Header Codec. -/

namespace Sys2Proof.Proofs

open Sys2Proof.Machine

/-! ### The command words -/

/-- A command word of format `AF` (30_encoding.md R83). -/
theorem assemble_eq_or_flags (op a : Byte) (fb ff fl : Bool) :
    assemble op a fb ff fl = op.setWidth 32 ||| (a.setWidth 32 <<< 8)
      ||| (BitVec.ofBool fb).setWidth 32 <<< 16 ||| (BitVec.ofBool ff).setWidth 32 <<< 17
      ||| (BitVec.ofBool fl).setWidth 32 <<< 18 := by
  have hreverse (v w x y z : Word) : v ||| w ||| x ||| y ||| z = z ||| y ||| x ||| w ||| v := by
    ac_rfl
  rw [← BitVec.setWidth_eq (assemble op a fb ff fl), assemble]
  simp only [BitVec.setWidth_append_eq_shiftLeft_setWidth_or]
  simp only [BitVec.shiftLeft_or_distrib, ← BitVec.shiftLeft_add, BitVec.setWidth_zero,
    BitVec.zero_shiftLeft, BitVec.zero_or, Nat.reduceAdd]
  exact hreverse ..

theorem encode_hdrPack {sn : Nat} (hsn : sn < 256) (bin first last : Bool) :
    encode (.hdrPack sn bin first last) =
      0x00000020#32 ||| (BitVec.ofNat 32 sn <<< 8) ||| (BitVec.ofBool bin).setWidth 32 <<< 16
        ||| (BitVec.ofBool first).setWidth 32 <<< 17
        ||| (BitVec.ofBool last).setWidth 32 <<< 18 := by
  rw [← BitVec.setWidth_ofNat_of_le_of_lt (w := 8) (by decide) hsn]
  exact assemble_eq_or_flags 0x20#8 ..

theorem encode_hdrUnpack (h : Byte) :
    encode (.hdrUnpack h) = 0x00000021#32 ||| (h.setWidth 32 <<< 8) := assemble_eq_or 0x21#8 h

/-! ### The header byte -/

/-- The layout of 30_encoding.md R90: the fields side by side, `sn` lowest. -/
def headerByte (hd : Header) : Byte :=
  BitVec.ofBool hd.last ++ BitVec.ofBool hd.first ++ BitVec.ofBool hd.binary ++ hd.sn

theorem flagByte_eq_setWidth (b : Bool) : flagByte b = (BitVec.ofBool b).setWidth 8 := by
  revert b; decide

/-- The shifts of 41_header.md R130 put each field in its place of the layout. -/
theorem pack_eq_headerByte (sn : Nat) (binary first last : Bool) :
    pack sn binary first last = headerByte ⟨BitVec.ofNat 5 sn, binary, first, last⟩ := by
  have hsn : BitVec.ofNat 8 (sn &&& 0x1F) = (BitVec.ofNat 5 sn).setWidth 8 := by
    rw [Nat.and_two_pow_sub_one_eq_mod sn 5, ← BitVec.ofNat_toNat, BitVec.toNat_ofNat]
  rw [← BitVec.setWidth_eq (headerByte _), headerByte, pack, hsn]
  simp only [flagByte_eq_setWidth, BitVec.setWidth_append_eq_shiftLeft_setWidth_or,
    BitVec.shiftLeft_or_distrib, ← BitVec.shiftLeft_add]
  ac_rfl

theorem unpack_headerByte (hd : Header) : unpack (headerByte hd) = hd := by
  have hsn : (headerByte hd).extractLsb' 0 5 = hd.sn := BitVec.extractLsb'_append_eq_right
  rw [unpack, hsn]
  simp only [headerByte, BitVec.getLsbD_append]
  simp

/-- The four fields cover the byte. -/
theorem headerByte_unpack (h : Byte) : headerByte (unpack h) = h := by
  apply BitVec.eq_of_getLsbD_eq
  intro j hj
  simp only [headerByte, unpack, BitVec.getLsbD_append, BitVec.getLsbD_extractLsb']
  have hfield : j < 5 ∨ j = 5 ∨ j = 6 ∨ j = 7 := by omega
  rcases hfield with hsn | rfl | rfl | rfl
  · simp [hsn]
  all_goals simp

/-- Settles O28: the header byte and its fields determine each other, and packing builds the byte
from the low five bits of the sequence number. -/
theorem packAndUnpackAreInverse : Obligations.PackAndUnpackAreInverse := by
  refine ⟨fun sn binary first last => ⟨?_, ?_⟩, fun h => ?_⟩
  · rw [pack_eq_headerByte, unpack_headerByte]
  · have hmod : BitVec.ofNat 5 (sn % 32) = BitVec.ofNat 5 sn :=
      BitVec.eq_of_toNat_eq (Nat.mod_mod ..)
    rw [pack_eq_headerByte, pack_eq_headerByte, hmod]
  · rw [pack_eq_headerByte, BitVec.ofNat_toNat, BitVec.setWidth_eq]
    exact headerByte_unpack h

/-! ### The results in integer arithmetic -/

theorem toNat_append_eq_add {m n : Nat} (x : BitVec m) (y : BitVec n) :
    (x ++ y).toNat = x.toNat * 2 ^ n + y.toNat := by
  rw [BitVec.toNat_append, ← Nat.shiftLeft_add_eq_or_of_lt y.isLt, Nat.shiftLeft_eq]

theorem headerByte_toNat (hd : Header) : (headerByte hd).toNat =
    hd.sn.toNat + 32 * hd.binary.toNat + 64 * hd.first.toNat + 128 * hd.last.toNat := by
  simp only [headerByte, toNat_append_eq_add, BitVec.toNat_ofBool]
  omega

theorem headerWord_toNat (hd : Header) : (headerWord hd).toNat =
    hd.sn.toNat + 256 * hd.binary.toNat + 512 * hd.first.toNat + 1024 * hd.last.toNat := by
  simp only [headerWord, toNat_append_eq_add, BitVec.toNat_ofBool, BitVec.toNat_zero]
  omega

theorem zext_pack_eq_ofNat (sn : Nat) (bin first last : Bool) :
    zext (pack sn bin first last) =
      BitVec.ofNat 32 (sn % 32 + (if bin then 32 else 0) + (if first then 64 else 0) +
        (if last then 128 else 0)) := by
  have hflag (k : Nat) (b : Bool) : (if b then k else 0) = k * b.toNat := by cases b <;> simp
  rw [zext, ← BitVec.ofNat_toNat, pack_eq_headerByte, headerByte_toNat]
  simp only [hflag, BitVec.toNat_ofNat]

theorem headerWord_unpack_eq_ofNat (h : Byte) :
    headerWord (unpack h) =
      BitVec.ofNat 32 (h.toNat % 32 + 256 * (h.toNat / 32 % 2) + 512 * (h.toNat / 64 % 2) +
        1024 * (h.toNat / 128)) := by
  have hbit (i : Nat) : (h.getLsbD i).toNat = h.toNat / 2 ^ i % 2 := Nat.toNat_testBit ..
  have hsn : (unpack h).sn.toNat = h.toNat % 32 := by simp [unpack]
  have hlast : h.toNat / 128 % 2 = h.toNat / 128 := by omega
  rw [← BitVec.setWidth_eq (headerWord _), ← BitVec.ofNat_toNat, headerWord_toNat, hsn]
  simp only [unpack, hbit, Nat.reducePow, hlast]

/-! ### The commands -/

theorem exec_hdrPack (sn : Nat) (bin first last : Bool) (s : State) :
    exec (.hdrPack sn bin first last) s =
      .next (succeed (zext (pack sn bin first last)) false s) := rfl

theorem exec_hdrUnpack (h : Byte) (s : State) :
    exec (.hdrUnpack h) s = .next (succeed (headerWord (unpack h)) false s) := rfl

/-- Settles O26: the word is the encoding of a well-formed command, whose result is the header byte
as a sum of its fields. -/
theorem hdrPackResult : Obligations.HdrPackResult := by
  refine fun sn bin first last hsn => ⟨?_, fun s => ?_⟩
  · rw [← encode_hdrPack hsn, decodeWord_encode (i := .hdrPack ..) (decide_eq_true hsn)]
  · rw [exec_hdrPack, zext_pack_eq_ofNat, succeed]

/-- Settles O27: the fields of the result are the bits of the byte, as quotients. -/
theorem hdrUnpackResult : Obligations.HdrUnpackResult := by
  refine fun h => ⟨?_, fun s => ?_⟩
  · rw [← encode_hdrUnpack, decodeWord_encode (i := .hdrUnpack h) rfl]
  · rw [exec_hdrUnpack, headerWord_unpack_eq_ofNat, succeed]

end Sys2Proof.Proofs
end

section
/-! PROOFS. The statements of 42_base64.md: the alphabet, the encoder's groups, the decoder
quartet by quartet, the sentinel detector, and the commands of the Binary-Safe Text Codec. -/

namespace Sys2Proof.Proofs

open Sys2Proof.Machine

/-! ### The alphabet -/

theorem sym_toNat (v : BitVec 6) : (sym v).toNat =
    if v.toNat ≤ 25 then 0x41 + v.toNat else if v.toNat ≤ 51 then 0x61 + (v.toNat - 26)
    else if v.toNat ≤ 61 then 0x30 + (v.toNat - 52) else if v.toNat = 62 then 0x2B else 0x2F := by
  have hv : v.toNat < 64 := v.isLt
  unfold sym
  split_ifs <;> simp only [BitVec.toNat_ofNat] <;> omega

theorem symVal_sym (v : BitVec 6) : symVal (sym v) = some v := by
  revert v
  decide

/-- In each range of symbols the distance from its first symbol is recovered. -/
theorem sym_of_symVal {c : Byte} {v : BitVec 6} (h : symVal c = some v) : sym v = c := by
  apply BitVec.eq_of_toNat_eq
  rw [sym_toNat]
  simp only [symVal] at h
  split_ifs at h <;> cases h <;> simp only [BitVec.toNat_ofNat] <;> split_ifs <;> omega

theorem symVal_padSym : symVal padSym = none := by decide

theorem ne_padSym_of_symVal {c : Byte} {v : BitVec 6} (h : symVal c = some v) : c ≠ padSym := by
  rintro rfl
  rw [symVal_padSym] at h
  cases h

theorem sym_ne_padSym (v : BitVec 6) : sym v ≠ padSym := ne_padSym_of_symVal (symVal_sym v)

/-- Settles O30: within each range a symbol and its value are a fixed distance apart. -/
theorem alphabetIsABijection : Obligations.AlphabetIsABijection :=
  ⟨symVal_sym, fun _ _ => sym_of_symVal, symVal_padSym, sym_toNat⟩

/-! ### The encoder -/

theorem base64Encode_one (x : Byte) : base64Encode [x] =
    [sym ((x ++ 0#8 ++ 0#8).extractLsb' 18 6), sym ((x ++ 0#8 ++ 0#8).extractLsb' 12 6),
      padSym, padSym] := rfl

theorem base64Encode_two (x y : Byte) : base64Encode [x, y] =
    [sym ((x ++ y ++ 0#8).extractLsb' 18 6), sym ((x ++ y ++ 0#8).extractLsb' 12 6),
      sym ((x ++ y ++ 0#8).extractLsb' 6 6), padSym] := rfl

theorem base64Encode_three (x y z : Byte) (rest : List Byte) :
    base64Encode (x :: y :: z :: rest) = groupSymbols (x ++ y ++ z) ++ base64Encode rest := rfl

theorem groupSymbols_length (v : BitVec 24) : (groupSymbols v).length = 4 := rfl

theorem padSym_not_mem_groupSymbols (v : BitVec 24) : padSym ∉ groupSymbols v := by
  simp [groupSymbols, (sym_ne_padSym _).symm]

theorem extractLsb'_eq_ofNat {w : Nat} (v : BitVec w) (start len : Nat) :
    v.extractLsb' start len = BitVec.ofNat len (v.toNat / 2 ^ start) := by
  rw [BitVec.extractLsb', Nat.shiftRight_eq_div_pow]

theorem bytes_toNat (x y z : Byte) :
    (x ++ y ++ z).toNat = x.toNat * 2 ^ 16 + y.toNat * 2 ^ 8 + z.toNat := by
  rw [toNat_append_eq_add, toNat_append_eq_add]
  omega

/-- Settles O31: the bits of a group are quotients of the number its bytes make up. -/
theorem encoderGroups : Obligations.EncoderGroups := by
  refine ⟨rfl, fun x => ?_, fun x y => ?_, fun x y z rest => ?_⟩
  · simp only [base64Encode_one, extractLsb'_eq_ofNat, bytes_toNat, BitVec.toNat_zero, Nat.zero_mul,
      Nat.add_zero, padSym]
  · simp only [base64Encode_two, extractLsb'_eq_ofNat, bytes_toNat, BitVec.toNat_zero, Nat.add_zero,
      padSym]
  · simp only [base64Encode_three, groupSymbols, extractLsb'_eq_ofNat, bytes_toNat,
      List.cons_append, List.nil_append]

theorem base64Encode_length (s : List Byte) :
    (base64Encode s).length = 4 * ((s.length + 2) / 3) := by
  induction s using base64Encode.induct with
  | case1 => rfl
  | case2 x => simp [base64Encode_one]
  | case3 x y => simp [base64Encode_two]
  | case4 x y z rest ih =>
    rw [base64Encode_three, List.length_append, groupSymbols_length, ih]
    simp only [List.length_cons]
    omega

/-- An encoding begins with a symbol of a value. -/
theorem ne_zero_of_padding {s : List Byte} {i : Nat} (h : (base64Encode s)[i]? = some padSym) :
    i ≠ 0 := by
  rintro rfl
  match s with
  | [] => cases h
  | [_] | [_, _] | _ :: _ :: _ :: _ => exact sym_ne_padSym _ (Option.some.inj h)

theorem padding_of_base64Encode {s : List Byte} {i : Nat}
    (h : (base64Encode s)[i]? = some padSym) :
    s.length % 3 ≠ 0 ∧ (base64Encode s).length < i + 4 := by
  induction s using base64Encode.induct generalizing i with
  | case1 => cases h
  | case2 x =>
    have hi := Nat.pos_of_ne_zero (ne_zero_of_padding h)
    exact ⟨by simp, Nat.lt_add_of_pos_left hi⟩
  | case3 x y =>
    have hi := Nat.pos_of_ne_zero (ne_zero_of_padding h)
    exact ⟨by simp, Nat.lt_add_of_pos_left hi⟩
  | case4 x y z rest ih =>
    rw [base64Encode_three] at h ⊢
    rcases Nat.lt_or_ge i 4 with hi | hi
    · rw [List.getElem?_append_left hi] at h
      exact absurd (List.mem_of_getElem? h) (padSym_not_mem_groupSymbols _)
    · rw [List.getElem?_append_right hi, groupSymbols_length] at h
      obtain ⟨hmod, hlast⟩ := ih h
      simp only [List.length_append, groupSymbols_length, List.length_cons]
      omega

/-- Settles O32: by groups; a full group has four symbols and no padding, and the two final groups
begin with a symbol. -/
theorem encodedLengthAndPadding : Obligations.EncodedLengthAndPadding :=
  fun s => ⟨base64Encode_length s, fun _ => padding_of_base64Encode⟩

/-! ### The decoder on one quartet -/

section

variable {a b c d : Byte} {va vb vc vd : BitVec 6} {last : Bool}

/-- The bytes of a 24-bit group, most significant first (42_base64.md R145). -/
def groupBytes (v : BitVec 24) : List Byte :=
  [v.extractLsb' 16 8, v.extractLsb' 8 8, v.extractLsb' 0 8]

/-- The ways one quartet can fail (42_base64.md R145): a symbol without a value, padding in the
first half, before a symbol, or before more input. -/
def badQuartet (a b c d : Byte) (last : Bool) : Prop :=
  symVal a = none ∨ symVal b = none ∨ (symVal c = none ∧ c ≠ padSym) ∨
    (symVal d = none ∧ d ≠ padSym) ∨ (c = padSym ∧ d ≠ padSym) ∨
    ((c = padSym ∨ d = padSym) ∧ last = false)

/-- What the third and the fourth symbol of a quartet can be. -/
theorem symbol_cases (c : Byte) :
    c = padSym ∨ (∃ v, symVal c = some v) ∨ (symVal c = none ∧ c ≠ padSym) := by
  by_cases hpad : c = padSym
  · exact .inl hpad
  · cases hc : symVal c with
    | none => exact .inr (.inr ⟨rfl, hpad⟩)
    | some v => exact .inr (.inl ⟨v, rfl⟩)

/-- A quartet is bad or has two, three or four values before its padding. -/
theorem quartet_cases (a b c d : Byte) (last : Bool) :
    badQuartet a b c d last ∨
      (∃ va vb vc vd, symVal a = some va ∧ symVal b = some vb ∧ symVal c = some vc ∧
        symVal d = some vd) ∨
      (∃ va vb vc, symVal a = some va ∧ symVal b = some vb ∧ symVal c = some vc ∧ d = padSym ∧
        last = true) ∨
      ∃ va vb, symVal a = some va ∧ symVal b = some vb ∧ c = padSym ∧ d = padSym ∧
        last = true := by
  unfold badQuartet
  cases ha : symVal a
  · simp
  cases hb : symVal b
  · simp
  rcases symbol_cases c with hc | ⟨vc, hc⟩ | ⟨hc, hne⟩
  · by_cases hd : d = padSym <;> cases last <;> simp [hc, hd, symVal_padSym]
  · rcases symbol_cases d with hd | ⟨vd, hd⟩ | ⟨hd, hne⟩
    · cases last <;> simp [hc, hd, symVal_padSym]
    · simp [hc, hd]
    · simp [hd, hne]
  · simp [hc, hne]

theorem decodeQuartet_data (ha : symVal a = some va) (hb : symVal b = some vb)
    (hc : symVal c = some vc) (hd : symVal d = some vd) :
    decodeQuartet a b c d last = some (groupBytes (va ++ vb ++ vc ++ vd)) := by
  simp [decodeQuartet, ha, hb, hc, hd, ne_padSym_of_symVal hc, ne_padSym_of_symVal hd, groupBytes]

theorem decodeQuartet_onePad (ha : symVal a = some va) (hb : symVal b = some vb)
    (hc : symVal c = some vc) :
    decodeQuartet a b c padSym true = some ((groupBytes (va ++ vb ++ vc ++ 0#6)).take 2) := by
  simp [decodeQuartet, ha, hb, hc, ne_padSym_of_symVal hc, groupBytes]

theorem decodeQuartet_twoPads (ha : symVal a = some va) (hb : symVal b = some vb) :
    decodeQuartet a b padSym padSym true =
      some ((groupBytes (va ++ vb ++ 0#6 ++ 0#6)).take 1) := by
  simp [decodeQuartet, ha, hb, groupBytes]

theorem decodeQuartet_of_bad (h : badQuartet a b c d last) : decodeQuartet a b c d last = none := by
  unfold decodeQuartet
  split
  · next va vb ha hb =>
    rcases h with h | h | ⟨hc, hne⟩ | ⟨hd, hne⟩ | ⟨rfl, hne⟩ | ⟨rfl | rfl, rfl⟩
    · simp [ha] at h
    · simp [hb] at h
    · simp [hc, hne]
    · cases symVal c <;> simp [hd, hne]
    · simp [hne, symVal_padSym]
    · simp [symVal_padSym]
    · cases symVal c <;> simp
  · rfl

theorem decodeQuartet_eq_none_iff :
    decodeQuartet a b c d last = none ↔ badQuartet a b c d last := by
  refine ⟨fun h => ?_, decodeQuartet_of_bad⟩
  rcases quartet_cases a b c d last with hbad | ⟨va, vb, vc, vd, ha, hb, hc, hd⟩ |
    ⟨va, vb, vc, ha, hb, hc, rfl, rfl⟩ | ⟨va, vb, ha, hb, rfl, rfl, rfl⟩
  · exact hbad
  · simp [decodeQuartet_data ha hb hc hd] at h
  · simp [decodeQuartet_onePad ha hb hc] at h
  · simp [decodeQuartet_twoPads ha hb] at h

theorem length_of_decodeQuartet {out : List Byte} (h : decodeQuartet a b c d last = some out) :
    out.length ≤ 3 := by
  rcases quartet_cases a b c d last with hbad | ⟨va, vb, vc, vd, ha, hb, hc, hd⟩ |
    ⟨va, vb, vc, ha, hb, hc, rfl, rfl⟩ | ⟨va, vb, ha, hb, rfl, rfl, rfl⟩
  · simp [decodeQuartet_of_bad hbad] at h
  · rw [decodeQuartet_data ha hb hc hd] at h
    cases h
    exact Nat.le_refl 3
  · rw [decodeQuartet_onePad ha hb hc] at h
    cases h
    exact Nat.le_succ 2
  · rw [decodeQuartet_twoPads ha hb] at h
    cases h
    exact Nat.le_add_left 1 2

end

/-! ### The decoder on the whole input -/

/-- Induction by quartets, as the decoder reads its input. -/
theorem quartet_induction {motive : List Byte → Prop} (nil : motive [])
    (short : ∀ t, t ≠ [] → t.length < 4 → motive t)
    (quartet : ∀ a b c d rest, motive rest → motive (a :: b :: c :: d :: rest)) :
    ∀ t, motive t
  | [] => nil
  | [_] => short _ (by simp) (by simp)
  | [_, _] => short _ (by simp) (by simp)
  | [_, _, _] => short _ (by simp) (by simp)
  | a :: b :: c :: d :: rest =>
    quartet a b c d rest (quartet_induction nil short quartet rest)

theorem base64Decode_nil : base64Decode [] = some [] := rfl

theorem base64Decode_short {t : List Byte} (hne : t ≠ []) (hlt : t.length < 4) :
    base64Decode t = none := by
  match t with
  | [] => exact absurd rfl hne
  | [_] | [_, _] | [_, _, _] => rfl
  | _ :: _ :: _ :: _ :: rest => simp only [List.length_cons] at hlt; omega

section

variable {a b c d : Byte} {va vb vc vd : BitVec 6} {rest : List Byte}

theorem base64Decode_quartet (a b c d : Byte) (rest : List Byte) :
    base64Decode (a :: b :: c :: d :: rest) =
      (decodeQuartet a b c d rest.isEmpty).bind fun bytes =>
        (base64Decode rest).map (bytes ++ ·) := by
  rw [base64Decode]
  cases decodeQuartet a b c d rest.isEmpty <;> cases base64Decode rest <;> rfl

theorem base64Decode_quartet_eq_none_iff : base64Decode (a :: b :: c :: d :: rest) = none ↔
    badQuartet a b c d rest.isEmpty ∨ base64Decode rest = none := by
  rw [base64Decode_quartet, ← decodeQuartet_eq_none_iff]
  cases decodeQuartet a b c d rest.isEmpty <;> simp

theorem base64Decode_data (ha : symVal a = some va) (hb : symVal b = some vb)
    (hc : symVal c = some vc) (hd : symVal d = some vd) :
    base64Decode (a :: b :: c :: d :: rest) =
      (base64Decode rest).map (groupBytes (va ++ vb ++ vc ++ vd) ++ ·) := by
  rw [base64Decode_quartet, decodeQuartet_data ha hb hc hd, Option.bind_some]

theorem base64Decode_onePad (ha : symVal a = some va) (hb : symVal b = some vb)
    (hc : symVal c = some vc) :
    base64Decode [a, b, c, padSym] = some ((groupBytes (va ++ vb ++ vc ++ 0#6)).take 2) := by
  rw [base64Decode_quartet, List.isEmpty_nil, decodeQuartet_onePad ha hb hc]
  rfl

theorem base64Decode_twoPads (ha : symVal a = some va) (hb : symVal b = some vb) :
    base64Decode [a, b, padSym, padSym] =
      some ((groupBytes (va ++ vb ++ 0#6 ++ 0#6)).take 1) := by
  rw [base64Decode_quartet, List.isEmpty_nil, decodeQuartet_twoPads ha hb]
  rfl

end

theorem base64Decode_of_length_mod {t : List Byte} (h : t.length % 4 ≠ 0) :
    base64Decode t = none := by
  induction t using quartet_induction with
  | nil => exact absurd rfl h
  | short t hne hlt => exact base64Decode_short hne hlt
  | quartet a b c d rest ih =>
    simp only [List.length_cons] at h
    exact base64Decode_quartet_eq_none_iff.mpr (.inr (ih (by omega)))

/-- A quartet of four symbols yields at most three bytes (42_base64.md R148). -/
theorem length_of_base64Decode {t r : List Byte} (h : base64Decode t = some r) :
    4 * r.length ≤ 3 * t.length := by
  induction t using quartet_induction generalizing r with
  | nil => cases h; exact Nat.le_refl 0
  | short t hne hlt => simp [base64Decode_short hne hlt] at h
  | quartet a b c d rest ih =>
    simp only [base64Decode_quartet, Option.bind_eq_some_iff, Option.map_eq_some_iff] at h
    obtain ⟨bytes, hbytes, tail, htail, rfl⟩ := h
    have := length_of_decodeQuartet hbytes
    have := ih htail
    simp only [List.length_append, List.length_cons]
    omega

theorem values_toNat (va vb vc vd : BitVec 6) : (va ++ vb ++ vc ++ vd).toNat =
    va.toNat * 2 ^ 18 + vb.toNat * 2 ^ 12 + vc.toNat * 2 ^ 6 + vd.toNat := by
  simp only [toNat_append_eq_add]
  omega

theorem groupBytes_values (va vb vc vd : BitVec 6) :
    let v := va.toNat * 2 ^ 18 + vb.toNat * 2 ^ 12 + vc.toNat * 2 ^ 6 + vd.toNat
    groupBytes (va ++ vb ++ vc ++ vd) =
      [BitVec.ofNat 8 (v / 2 ^ 16), BitVec.ofNat 8 (v / 2 ^ 8), BitVec.ofNat 8 (v / 2 ^ 0)] := by
  simp only [groupBytes, extractLsb'_eq_ofNat, values_toNat]

/-- Settles O60: the equations of the decoder's quartets, the bytes of a group as quotients; a
quartet that fails is a bad one, `last` being whether nothing follows. -/
theorem decoderGroups : Obligations.DecoderGroups := by
  refine ⟨base64Decode_nil, fun t => base64Decode_of_length_mod,
    fun a b c d va vb vc vd rest ha hb hc hd => ?_, fun a b c va vb vc ha hb hc => ?_,
    fun a b va vb ha hb => ?_, fun a b c d rest h => ?_⟩
  · rw [base64Decode_data ha hb hc hd, groupBytes_values]
  · rw [← padSym, base64Decode_onePad ha hb hc, groupBytes_values]
    rfl
  · rw [← padSym, base64Decode_twoPads ha hb, groupBytes_values]
    rfl
  · refine base64Decode_quartet_eq_none_iff.mpr (.inl ?_)
    rwa [badQuartet, List.isEmpty_eq_false_iff]

/-! ### The decoder undoes the encoder -/

theorem groupBytes_bytes (x y z : Byte) : groupBytes (x ++ y ++ z) = [x, y, z] := by
  have hx : (x ++ y ++ z).extractLsb' 16 8 = x := by
    rw [BitVec.extractLsb'_append_eq_of_le (by decide)]
    exact BitVec.extractLsb'_append_eq_left
  have hy : (x ++ y ++ z).extractLsb' 8 8 = y := by
    rw [BitVec.extractLsb'_append_eq_of_le (by decide)]
    exact BitVec.extractLsb'_append_eq_right
  have hz : (x ++ y ++ z).extractLsb' 0 8 = z := BitVec.extractLsb'_append_eq_right
  rw [groupBytes, hx, hy, hz]

/-- The four 6-bit fields cover the group. -/
theorem append_symbol_values (v : BitVec 24) :
    v.extractLsb' 18 6 ++ v.extractLsb' 12 6 ++ v.extractLsb' 6 6 ++ v.extractLsb' 0 6 = v := by
  rw [BitVec.extractLsb'_append_extractLsb'_eq_extractLsb' (start₂ := 18) (start₁ := 12) rfl,
    BitVec.extractLsb'_append_extractLsb'_eq_extractLsb' (start₂ := 12) (start₁ := 6) rfl,
    BitVec.extractLsb'_append_extractLsb'_eq_extractLsb' (start₂ := 6) (start₁ := 0) rfl]
  exact BitVec.extractLsb'_eq_self

/-- The last symbol of a group whose third byte is zero. -/
theorem extractLsb'_zero_of_two_bytes (x y : Byte) : (x ++ y ++ 0#8).extractLsb' 0 6 = 0#6 :=
  BitVec.extractLsb'_append_eq_of_add_le (by decide)

/-- The third symbol of a group whose second and third bytes are zero. -/
theorem extractLsb'_six_of_one_byte (x : Byte) : (x ++ 0#8 ++ 0#8).extractLsb' 6 6 = 0#6 := by
  rw [extractLsb'_eq_ofNat, bytes_toNat]
  apply BitVec.eq_of_toNat_eq
  simp only [BitVec.toNat_ofNat]
  omega

theorem base64Decode_groupSymbols (v : BitVec 24) (rest : List Byte) :
    base64Decode (groupSymbols v ++ rest) = (base64Decode rest).map (groupBytes v ++ ·) := by
  have h := base64Decode_data (rest := rest) (symVal_sym (v.extractLsb' 18 6))
    (symVal_sym (v.extractLsb' 12 6)) (symVal_sym (v.extractLsb' 6 6))
    (symVal_sym (v.extractLsb' 0 6))
  rwa [append_symbol_values] at h

theorem base64Decode_base64Encode (s : List Byte) : base64Decode (base64Encode s) = some s := by
  induction s using base64Encode.induct with
  | case1 => rfl
  | case2 x =>
    have hgroup := append_symbol_values (x ++ 0#8 ++ 0#8)
    rw [extractLsb'_zero_of_two_bytes, extractLsb'_six_of_one_byte] at hgroup
    rw [base64Encode_one, base64Decode_twoPads (symVal_sym _) (symVal_sym _), hgroup,
      groupBytes_bytes]
    rfl
  | case3 x y =>
    have hgroup := append_symbol_values (x ++ y ++ 0#8)
    rw [extractLsb'_zero_of_two_bytes] at hgroup
    rw [base64Encode_two, base64Decode_onePad (symVal_sym _) (symVal_sym _) (symVal_sym _), hgroup,
      groupBytes_bytes]
    rfl
  | case4 x y z rest ih =>
    rw [base64Encode_three, base64Decode_groupSymbols, ih, groupBytes_bytes]
    rfl

/-- Settles O35: by the encoder's groups, each of which the decoder reads back. -/
theorem decodeOfEncodedBytes : Obligations.DecodeOfEncodedBytes := base64Decode_base64Encode

/-! ### The listed malformations -/

/-- A symbol outside the alphabet and `=`. -/
def hasForeignSymbol (t : List Byte) : Prop := ∃ b ∈ t, symVal b = none ∧ b ≠ padSym

/-- A quartet with more than two `=`. -/
def hasExcessPadding (t : List Byte) : Prop := ∃ k, 2 < ((t.drop (4 * k)).take 4).count padSym

/-- `=` before a symbol that is not `=`, within one quartet. -/
def hasPaddingBeforeSymbol (t : List Byte) : Prop :=
  ∃ k i j, i < j ∧ j < 4 ∧ t[4 * k + i]? = some padSym ∧ 4 * k + j < t.length ∧
    t[4 * k + j]? ≠ some padSym

/-- `=` in a quartet that is not the last. -/
def hasInnerPadding (t : List Byte) : Prop :=
  ∃ i, t[i]? = some padSym ∧ 4 * (i / 4 + 1) < t.length

/-- The malformations of 42_base64.md R150. -/
def malformed (t : List Byte) : Prop :=
  t.length % 4 ≠ 0 ∨ hasForeignSymbol t ∨ hasExcessPadding t ∨ hasPaddingBeforeSymbol t ∨
    hasInnerPadding t

theorem not_malformed_nil : ¬malformed [] := by
  simp [malformed, hasForeignSymbol, hasExcessPadding, hasPaddingBeforeSymbol, hasInnerPadding]

/-- `=` before another symbol of the quartet `q`. -/
def paddingBeforeSymbol (q : List Byte) : Prop :=
  ∃ i j, i < j ∧ j < 4 ∧ q[i]? = some padSym ∧ q[j]? ≠ some padSym

/-- The malformations of one quartet, `last` saying whether the input ends with it. -/
def malformedQuartet (q : List Byte) (last : Bool) : Prop :=
  hasForeignSymbol q ∨ 2 < q.count padSym ∨ paddingBeforeSymbol q ∨ (padSym ∈ q ∧ last = false)

/-! Each malformation stands in the first quartet or in the rest. -/

section

variable {q rest : List Byte}

theorem hasForeignSymbol_append :
    hasForeignSymbol (q ++ rest) ↔ hasForeignSymbol q ∨ hasForeignSymbol rest := by
  simp only [hasForeignSymbol, List.mem_append, or_and_right, exists_or]

theorem hasExcessPadding_append (hq : q.length = 4) :
    hasExcessPadding (q ++ rest) ↔ 2 < q.count padSym ∨ hasExcessPadding rest := by
  have hfirst : ((q ++ rest).drop (4 * 0)).take 4 = q := List.take_left' hq
  have hnext (k : Nat) : (q ++ rest).drop (4 * (k + 1)) = rest.drop (4 * k) := by
    rw [Nat.mul_succ, Nat.add_comm, ← List.drop_drop, List.drop_left' hq]
  rw [hasExcessPadding, ← Nat.or_exists_add_one, hfirst]
  simp only [hnext, hasExcessPadding]

theorem getElem?_append_quartet (hq : q.length = 4) (k i : Nat) :
    (q ++ rest)[4 * (k + 1) + i]? = rest[4 * k + i]? := by
  rw [List.getElem?_append_right (by omega), hq]
  congr 1
  omega

theorem hasPaddingBeforeSymbol_append (hq : q.length = 4) :
    hasPaddingBeforeSymbol (q ++ rest) ↔ paddingBeforeSymbol q ∨ hasPaddingBeforeSymbol rest := by
  have hlen (k j : Nat) : 4 * (k + 1) + j < (q ++ rest).length ↔ 4 * k + j < rest.length := by
    rw [List.length_append]
    omega
  rw [hasPaddingBeforeSymbol, ← Nat.or_exists_add_one]
  simp only [getElem?_append_quartet hq, hlen]
  refine or_congr ⟨?_, ?_⟩ Iff.rfl
  · rintro ⟨i, j, hij, hj, hpad, -, hsym⟩
    rw [Nat.mul_zero, Nat.zero_add, List.getElem?_append_left (by omega)] at hpad hsym
    exact ⟨i, j, hij, hj, hpad, hsym⟩
  · rintro ⟨i, j, hij, hj, hpad, hsym⟩
    refine ⟨i, j, hij, hj, ?_, ?_, ?_⟩
    · rwa [Nat.mul_zero, Nat.zero_add, List.getElem?_append_left (by omega)]
    · rw [List.length_append]
      omega
    · rwa [Nat.mul_zero, Nat.zero_add, List.getElem?_append_left (by omega)]

theorem hasInnerPadding_append (hq : q.length = 4) :
    hasInnerPadding (q ++ rest) ↔ (padSym ∈ q ∧ rest.isEmpty = false) ∨ hasInnerPadding rest := by
  simp only [hasInnerPadding, List.length_append, List.isEmpty_eq_false_iff,
    ← List.length_pos_iff]
  constructor
  · rintro ⟨i, hpad, hlast⟩
    rcases Nat.lt_or_ge i 4 with hi | hi
    · rw [List.getElem?_append_left (by omega)] at hpad
      exact .inl ⟨List.mem_of_getElem? hpad, by omega⟩
    · rw [List.getElem?_append_right (by omega), hq] at hpad
      exact .inr ⟨i - 4, hpad, by omega⟩
  · rintro (⟨hmem, hpos⟩ | ⟨i, hpad, hlast⟩)
    · obtain ⟨i, hi, hpad⟩ := List.mem_iff_getElem.mp hmem
      refine ⟨i, ?_, by omega⟩
      rw [List.getElem?_append_left hi, List.getElem?_eq_getElem hi, hpad]
    · refine ⟨i + 4, ?_, by omega⟩
      rwa [List.getElem?_append_right (by omega), hq, Nat.add_sub_cancel]

theorem malformed_append (hq : q.length = 4) :
    malformed (q ++ rest) ↔ malformedQuartet q rest.isEmpty ∨ malformed rest := by
  have hlen : (q ++ rest).length % 4 = rest.length % 4 := by
    rw [List.length_append, hq, Nat.add_mod_left]
  rw [malformed, hlen, hasForeignSymbol_append, hasExcessPadding_append hq,
    hasPaddingBeforeSymbol_append hq, hasInnerPadding_append hq, malformedQuartet, malformed]
  tauto

end

section

variable {a b c d : Byte} {last : Bool}

theorem paddingBeforeSymbol_quartet_iff : paddingBeforeSymbol [a, b, c, d] ↔
    (a = padSym ∧ (b ≠ padSym ∨ c ≠ padSym ∨ d ≠ padSym)) ∨
      (b = padSym ∧ (c ≠ padSym ∨ d ≠ padSym)) ∨ (c = padSym ∧ d ≠ padSym) := by
  constructor
  · rintro ⟨i, j, hij, hj, hpad, hsym⟩
    interval_cases j <;> interval_cases i <;> simp_all
  · rintro (⟨ha, hb | hc | hd⟩ | ⟨hb, hc | hd⟩ | ⟨hc, hd⟩)
    · exact ⟨0, 1, by simp [ha, hb]⟩
    · exact ⟨0, 2, by simp [ha, hc]⟩
    · exact ⟨0, 3, by simp [ha, hd]⟩
    · exact ⟨1, 2, by simp [hb, hc]⟩
    · exact ⟨1, 3, by simp [hb, hd]⟩
    · exact ⟨2, 3, by simp [hc, hd]⟩

/-- Padding in the first half stands before a symbol, or the quartet has three or four of it. -/
theorem malformedQuartet_of_firstHalf (h : a = padSym ∨ b = padSym) :
    malformedQuartet [a, b, c, d] last := by
  rw [malformedQuartet, paddingBeforeSymbol_quartet_iff]
  by_cases hb : b = padSym
  · by_cases hc : c = padSym
    · by_cases hd : d = padSym
      · refine .inr (.inl ?_)
        simp only [List.count_cons, hb, hc, hd, BEq.rfl, if_true]
        omega
      · exact .inr (.inr (.inl (.inr (.inl ⟨hb, .inr hd⟩))))
    · exact .inr (.inr (.inl (.inr (.inl ⟨hb, .inl hc⟩))))
  · exact .inr (.inr (.inl (.inl ⟨h.resolve_right hb, .inl hb⟩)))

theorem firstHalf_of_two_lt_count (h : 2 < [a, b, c, d].count padSym) :
    a = padSym ∨ b = padSym := by
  by_contra hne
  rw [not_or] at hne
  obtain ⟨ha, hb⟩ := hne
  rw [List.count_cons_of_ne ha, List.count_cons_of_ne hb] at h
  exact absurd (List.count_le_length (a := padSym) (l := [c, d])) (Nat.not_le.mpr h)

theorem badQuartet_of_firstHalf (h : a = padSym ∨ b = padSym) : badQuartet a b c d last := by
  rcases h with rfl | rfl
  · exact .inl symVal_padSym
  · exact .inr (.inl symVal_padSym)

theorem malformedQuartet_iff : malformedQuartet [a, b, c, d] last ↔ badQuartet a b c d last := by
  constructor
  · rintro (⟨x, hx, hval, hne⟩ | hcount | hbefore | ⟨hmem, hlast⟩)
    · simp only [List.mem_cons, List.not_mem_nil, or_false] at hx
      rcases hx with rfl | rfl | rfl | rfl
      · exact .inl hval
      · exact .inr (.inl hval)
      · exact .inr (.inr (.inl ⟨hval, hne⟩))
      · exact .inr (.inr (.inr (.inl ⟨hval, hne⟩)))
    · exact badQuartet_of_firstHalf (firstHalf_of_two_lt_count hcount)
    · rcases paddingBeforeSymbol_quartet_iff.mp hbefore with ⟨ha, -⟩ | ⟨hb, -⟩ | hcd
      · exact badQuartet_of_firstHalf (.inl ha)
      · exact badQuartet_of_firstHalf (.inr hb)
      · exact .inr (.inr (.inr (.inr (.inl hcd))))
    · simp only [List.mem_cons, List.not_mem_nil, or_false, @eq_comm _ padSym] at hmem
      rcases hmem with ha | hb | hcd
      · exact badQuartet_of_firstHalf (.inl ha)
      · exact badQuartet_of_firstHalf (.inr hb)
      · exact .inr (.inr (.inr (.inr (.inr ⟨hcd, hlast⟩))))
  · rintro (ha | hb | hc | hd | hcd | ⟨hcd, hlast⟩)
    · by_cases hpad : a = padSym
      · exact malformedQuartet_of_firstHalf (.inl hpad)
      · exact .inl ⟨a, by simp, ha, hpad⟩
    · by_cases hpad : b = padSym
      · exact malformedQuartet_of_firstHalf (.inr hpad)
      · exact .inl ⟨b, by simp, hb, hpad⟩
    · exact .inl ⟨c, by simp, hc⟩
    · exact .inl ⟨d, by simp, hd⟩
    · exact .inr (.inr (.inl (paddingBeforeSymbol_quartet_iff.mpr (.inr (.inr hcd)))))
    · refine .inr (.inr (.inr ⟨?_, hlast⟩))
      rcases hcd with rfl | rfl <;> simp

end

theorem base64Decode_eq_none_iff (t : List Byte) : base64Decode t = none ↔ malformed t := by
  induction t using quartet_induction with
  | nil => simp [base64Decode_nil, not_malformed_nil]
  | short t hne hlt =>
    have hpos := List.length_pos_iff.mpr hne
    exact iff_of_true (base64Decode_short hne hlt) (.inl (by omega))
  | quartet a b c d rest ih =>
    rw [base64Decode_quartet_eq_none_iff, ih, ← malformedQuartet_iff]
    exact (malformed_append rfl).symm

/-- Settles O36: quartet by quartet, the malformations are the ways a quartet can fail. -/
theorem decoderIsStrict : Obligations.DecoderIsStrict := base64Decode_eq_none_iff

/-! ### The commands -/

theorem boolWord_eq_zero_or_one (b : Bool) : boolWord b = 0#32 ∨ boolWord b = 1#32 := by
  cases b
  · exact .inl rfl
  · exact .inr rfl

theorem boolWord_eq_one_iff {b : Bool} : boolWord b = 1#32 ↔ b = true := by
  cases b <;> decide

theorem isBinary_iff {c : CfgData} {p : List Byte} : isBinary c p = true ↔
    ∃ b ∈ p, b = c.sentEnd ∨ b = c.sentEnc ∨ c.sentBegin = some b := by
  simp [isBinary, CfgData.sentinels]

section

variable {s : State}

theorem exec_binDetect_of_le (h : s.ilen.toNat ≤ s.cfg.ibufSize) :
    exec .binDetect s =
      .next (succeed (boolWord (isBinary s.cfg.toCfgData (inputString s))) false s) :=
  congrArg Host.Outcome.next (withInput_of_le h)

theorem exec_binDetect_of_lt (h : s.cfg.ibufSize < s.ilen.toNat) :
    exec .binDetect s = .next (raise .size false s) :=
  congrArg Host.Outcome.next (withInput_of_lt h)

theorem base64Encode_inputString_length (s : State) :
    (base64Encode (inputString s)).length = b64Len s.ilen.toNat := by
  rw [base64Encode_length, inputString_length, b64Len]

theorem exec_b64Enc_of_fits (hin : s.ilen.toNat ≤ s.cfg.ibufSize)
    (hout : b64Len s.ilen.toNat ≤ obound s) :
    exec .b64Enc s = .next (produce (base64Encode (inputString s))
      (lenWord (base64Encode (inputString s)).length) s) := by
  rw [← base64Encode_inputString_length] at hout
  exact congrArg Host.Outcome.next ((withInput_of_le hin).trans (if_neg (Nat.not_lt.mpr hout)))

theorem exec_b64Enc_of_not_fits
    (h : ¬(s.ilen.toNat ≤ s.cfg.ibufSize ∧ b64Len s.ilen.toNat ≤ obound s)) :
    exec .b64Enc s = .next (raiseProducing .size s) := by
  rw [← base64Encode_inputString_length] at h
  refine congrArg Host.Outcome.next ?_
  rcases Nat.lt_or_ge s.cfg.ibufSize s.ilen.toNat with hin | hin
  · exact withInput_of_lt hin
  · exact (withInput_of_le hin).trans (if_pos (Nat.lt_of_not_le fun hout => h ⟨hin, hout⟩))

theorem exec_b64Dec_of_lt (h : s.cfg.ibufSize < s.ilen.toNat) :
    exec .b64Dec s = .next (raiseProducing .size s) :=
  congrArg Host.Outcome.next (withInput_of_lt h)

theorem exec_b64Dec_of_none (hin : s.ilen.toNat ≤ s.cfg.ibufSize)
    (h : base64Decode (inputString s) = none) :
    exec .b64Dec s = .next (raiseProducing .decode s) := by
  rw [exec, execB64Dec, withInput_of_le hin, h]

theorem exec_b64Dec_of_some {r : List Byte} (hin : s.ilen.toNat ≤ s.cfg.ibufSize)
    (h : base64Decode (inputString s) = some r) :
    exec .b64Dec s = .next (produceBounded r (lenWord r.length) s) := by
  rw [exec, execB64Dec, withInput_of_le hin, h]

end

/-- Settles O29: the two ends of the input check, and the sentinel set as a list. -/
theorem binDetectFindsSentinels : Obligations.BinDetectFindsSentinels := by
  refine ⟨decodeWord_encode (i := .binDetect) rfl, fun s => ?_⟩
  rcases Nat.lt_or_ge s.cfg.ibufSize s.ilen.toNat with hlt | hle
  · exact ⟨_, exec_binDetect_of_lt hlt, fun _ => failedPlain_raise .size s,
      fun hle => absurd hlt (Nat.not_lt.mpr hle)⟩
  · exact ⟨_, exec_binDetect_of_le hle, fun hlt => absurd hlt (Nat.not_lt.mpr hle),
      fun _ => ⟨_, succeededPlain_succeed _ s, boolWord_eq_zero_or_one _,
        boolWord_eq_one_iff.trans isBinary_iff⟩⟩

/-- Settles O33: the encoded length decides between the two ends. -/
theorem b64EncProducesTheEncoding : Obligations.B64EncProducesTheEncoding := by
  refine ⟨decodeWord_encode (i := .b64Enc) rfl, fun s => ?_⟩
  split
  · next hfits =>
    obtain ⟨hin, hout⟩ := hfits
    have hproduced := producedOutput_produce (r := lenWord (base64Encode (inputString s)).length)
      ((base64Encode_inputString_length s).trans_le hout)
    exact ⟨_, exec_b64Enc_of_fits hin hout, hproduced,
      (olen_of_producedOutput hproduced).trans (base64Encode_inputString_length s)⟩
  · next hfits =>
    exact ⟨_, exec_b64Enc_of_not_fits hfits, failedProducing_raiseProducing .size s⟩

/-- Settles O34: the input check, the decoder's answer and the output bound, in this order. -/
theorem b64DecProducesTheDecoding : Obligations.B64DecProducesTheDecoding := by
  refine ⟨decodeWord_encode (i := .b64Dec) rfl, fun s => ?_⟩
  rcases Nat.lt_or_ge s.cfg.ibufSize s.ilen.toNat with hlt | hle
  · have hout : ¬s.ilen.toNat ≤ s.cfg.ibufSize := Nat.not_le.mpr hlt
    exact ⟨_, exec_b64Dec_of_lt hlt, fun _ => failedProducing_raiseProducing .size s,
      fun hle => absurd hle hout, fun _ hle => absurd hle hout⟩
  have hin : ¬s.cfg.ibufSize < s.ilen.toNat := Nat.not_lt.mpr hle
  cases hdec : base64Decode (inputString s) with
  | none =>
    exact ⟨_, exec_b64Dec_of_none hle hdec, fun hlt => absurd hlt hin,
      fun _ _ => failedProducing_raiseProducing .decode s, fun _ _ h => nomatch h⟩
  | some out =>
    refine ⟨_, exec_b64Dec_of_some hle hdec, fun hlt => absurd hlt hin,
      fun _ h => absurd h (Option.some_ne_none out), ?_⟩
    rintro _ - ⟨rfl⟩
    rcases produceBounded_cases out (lenWord out.length) s with ⟨hlong, heq⟩ | ⟨hfits, heq⟩
    · rw [if_neg (Nat.not_le.mpr hlong), heq]
      exact failedProducing_raiseProducing .size s
    · have hlen := length_of_base64Decode hdec
      rw [inputString_length] at hlen
      rw [if_pos hfits, heq]
      exact ⟨producedOutput_produce hfits, by omega⟩

end Sys2Proof.Proofs
end

section
/-! PROOFS. The statements of 43_frame_tx.md: the wire chunk and what it carries, `CHUNK_TX`, the
chunks of a message, and the send loop. -/

namespace Sys2Proof.Proofs

open Sys2Proof.Machine

/-! ### The block of a chunk -/

section

variable (w : TagWidth) (h : Byte) (p : List Byte)

theorem chunkBlock_length : (chunkBlock w h p).length = 1 + p.length + w.bytes := by
  rw [chunkBlock, List.length_append, tag_length, List.length_cons]
  omega

theorem headD_chunkBlock : (chunkBlock w h p).headD 0#8 = h := rfl

theorem validate_chunkBlock : validate w (chunkBlock w h p) = true :=
  validate_append_tag.mpr (List.cons_ne_nil h p)

/-- Header and tag stripped, the payload is left (44_frame_rx.md R194). -/
theorem blockPayload_chunkBlock : blockPayload w (chunkBlock w h p) = p := by
  have hlen : (chunkBlock w h p).length - 1 - w.bytes = p.length := by
    rw [chunkBlock_length]
    omega
  rw [blockPayload, hlen]
  exact List.take_left

end

/-! ### The wire chunk -/

theorem unpack_pack (sn : Nat) (binary first last : Bool) :
    unpack (pack sn binary first last) = ⟨BitVec.ofNat 5 sn, binary, first, last⟩ := by
  rw [pack_eq_headerByte, unpack_headerByte]

theorem chunkBinary_nil (c : CfgData) : chunkBinary c [] = false := Bool.and_false _

theorem le_b64Len (n : Nat) : n ≤ b64Len n := by
  rw [b64Len]
  omega

section

variable {c : CfgData} {p : List Byte}

theorem buildChunk_of_plain (h : chunkBinary c p = false) (sn : Nat) (first last : Bool) :
    buildChunk c sn first last p = chunkBlock c.tagw (pack sn false first last) p := by
  simp [buildChunk, chunkHeader, h]

theorem buildChunk_of_binary (h : chunkBinary c p = true) (sn : Nat) (first last : Bool) :
    buildChunk c sn first last p =
      c.sentEnc :: base64Encode (chunkBlock c.tagw (pack sn true first last) p) := by
  simp [buildChunk, chunkHeader, h]

theorem buildChunk_length_of_plain (h : chunkBinary c p = false) (sn : Nat) (first last : Bool) :
    (buildChunk c sn first last p).length = c.plainLen p.length := by
  rw [buildChunk_of_plain h, chunkBlock_length, CfgData.plainLen]

theorem buildChunk_length_of_binary (h : chunkBinary c p = true) (sn : Nat) (first last : Bool) :
    (buildChunk c sn first last p).length = c.encLen p.length := by
  rw [buildChunk_of_binary h, List.length_cons, base64Encode_length, chunkBlock_length,
    CfgData.encLen, b64Len, CfgData.plainLen]
  omega

theorem plainLen_le_wireMax {n : Nat} (h : n ≤ c.m) : c.plainLen n ≤ c.wireMax := by
  have hmono : c.plainLen n ≤ c.plainLen c.m := by
    simp only [CfgData.plainLen]
    omega
  have henc := le_b64Len (c.plainLen c.m)
  rw [CfgData.wireMax]
  split
  · rw [CfgData.encLen]
    omega
  · exact hmono

theorem encLen_le_wireMax (hen : c.b64En = true) {n : Nat} (h : n ≤ c.m) :
    c.encLen n ≤ c.wireMax := by
  rw [CfgData.wireMax, if_pos hen]
  simp only [CfgData.encLen, b64Len, CfgData.plainLen]
  omega

/-- A chunk is encoded only where base64 is enabled, which `WireMax` takes into account. -/
theorem buildChunk_length_le_wireMax (h : p.length ≤ c.m) (sn : Nat) (first last : Bool) :
    (buildChunk c sn first last p).length ≤ c.wireMax := by
  cases hbin : chunkBinary c p with
  | false =>
    rw [buildChunk_length_of_plain hbin]
    exact plainLen_le_wireMax h
  | true =>
    obtain ⟨hen, -⟩ := Bool.and_eq_true_iff.mp hbin
    rw [buildChunk_length_of_binary hbin]
    exact encLen_le_wireMax hen h

end

theorem wireMax_le_mtu (c : Cfg) : c.wireMax ≤ c.mtu := by
  obtain ⟨-, -, -, h, -⟩ := Cfg.bounds c
  exact h

theorem mtu_le_ibufSize (c : Cfg) : c.mtu ≤ c.ibufSize := by
  obtain ⟨-, -, -, -, h, -⟩ := Cfg.bounds c
  exact h

theorem mtu_le_obufSize (c : Cfg) : c.mtu ≤ c.obufSize := by
  obtain ⟨-, -, -, -, -, h, -⟩ := Cfg.bounds c
  exact h

/-- Settles O38: a plain chunk is its block, an encoded one the block's encoding behind `SENT_ENC`,
and a block validates and gives back its header and payload. -/
theorem builtChunksFitAndVerify : Obligations.BuiltChunksFitAndVerify := by
  refine fun c sn first last p hp => ⟨buildChunk_length_le_wireMax hp sn first last,
    wireMax_le_mtu c, mtu_le_obufSize c, ?_, fun hbin => ⟨?_, ?_, ?_⟩,
    fun hbin => ⟨?_, ?_, ?_⟩⟩
  · rintro rfl
    exact chunkBinary_nil _
  · exact buildChunk_length_of_plain hbin sn first last
  · rw [buildChunk_of_plain hbin]
    exact validate_chunkBlock ..
  · rw [buildChunk_of_plain hbin, headD_chunkBlock, unpack_pack]
  · exact buildChunk_length_of_binary hbin sn first last
  · rw [buildChunk_of_binary hbin, List.head?_cons]
  · rw [buildChunk_of_binary hbin, List.tail_cons]
    exact ⟨_, base64Decode_base64Encode _, validate_chunkBlock .., unpack_pack ..,
      blockPayload_chunkBlock ..⟩

/-! ### The command -/

theorem encode_chunkTx {sn : Nat} (hsn : sn < 256) (first last : Bool) :
    encode (.chunkTx sn first last) =
      0x00000040#32 ||| (BitVec.ofNat 32 sn <<< 8) ||| (BitVec.ofBool first).setWidth 32 <<< 17
        ||| (BitVec.ofBool last).setWidth 32 <<< 18 := by
  have hnoFB : (BitVec.ofBool false).setWidth 32 <<< 16 = 0#32 := by decide
  rw [← BitVec.setWidth_ofNat_of_le_of_lt (w := 8) (by decide) hsn, encode, assemble_eq_or_flags,
    hnoFB, BitVec.or_zero]
  rfl

/-- What `CHUNK_TX` outputs (43_frame_tx.md R171). -/
def inputChunk (sn : Nat) (first last : Bool) (s : State) : List Byte :=
  buildChunk s.cfg.toCfgData sn first last (inputString s)

/-- The three size checks of `CHUNK_TX` (43_frame_tx.md R171). -/
def chunkTxFits (sn : Nat) (first last : Bool) (s : State) : Prop :=
  s.ilen.toNat ≤ s.cfg.ibufSize ∧ s.ilen.toNat ≤ s.cfg.m ∧
    (inputChunk sn first last s).length ≤ obound s

section

variable {sn : Nat} {first last : Bool} {s : State}

theorem exec_chunkTx_of_input_fits (hin : s.ilen.toNat ≤ s.cfg.ibufSize)
    (hm : s.ilen.toNat ≤ s.cfg.m) :
    exec (.chunkTx sn first last) s = .next (sendChunk sn first last (inputString s) s) := by
  rw [← inputString_length] at hm
  exact congrArg Host.Outcome.next ((withInput_of_le hin).trans (if_neg (Nat.not_lt.mpr hm)))

theorem exec_chunkTx_of_fits (h : chunkTxFits sn first last s) :
    exec (.chunkTx sn first last) s = .next (produce (inputChunk sn first last s)
      (zext (chunkHeader s.cfg.toCfgData sn first last (inputString s))) s) := by
  obtain ⟨hin, hm, hout⟩ := h
  rw [exec_chunkTx_of_input_fits hin hm]
  exact congrArg Host.Outcome.next (if_neg (Nat.not_lt.mpr hout))

theorem exec_chunkTx_of_not_fits (h : ¬chunkTxFits sn first last s) :
    exec (.chunkTx sn first last) s = .next (raiseProducing .size s) := by
  rcases Nat.lt_or_ge s.cfg.ibufSize s.ilen.toNat with hin | hin
  · exact congrArg Host.Outcome.next (withInput_of_lt hin)
  rcases Nat.lt_or_ge s.cfg.m s.ilen.toNat with hm | hm
  · rw [← inputString_length] at hm
    exact congrArg Host.Outcome.next ((withInput_of_le hin).trans (if_pos hm))
  · rw [exec_chunkTx_of_input_fits hin hm]
    exact congrArg Host.Outcome.next
      (if_pos (Nat.lt_of_not_le fun hout => h ⟨hin, hm, hout⟩))

end

/-- Settles O37: the three size checks decide between the two ends, and the output is `BuildChunk`
of the input string. -/
theorem chunkTxProducesTheWireChunk : Obligations.ChunkTxProducesTheWireChunk := by
  refine fun sn first last => ⟨fun hsn => ?_, fun s => ?_⟩
  · rw [← encode_chunkTx hsn, decodeWord_encode (i := .chunkTx ..) (decide_eq_true hsn)]
  by_cases hfits : chunkTxFits sn first last s
  · have ⟨_, _, hout⟩ := hfits
    exact ⟨_, exec_chunkTx_of_fits hfits, (if_pos hfits).mpr (producedOutput_produce hout)⟩
  · exact ⟨_, exec_chunkTx_of_not_fits hfits,
      (if_neg hfits).mpr (failedProducing_raiseProducing .size s)⟩

/-! ### The chunks of a message -/

theorem one_le_chunkCount (c : CfgData) (len : Nat) : 1 ≤ chunkCount c len := Nat.le_max_left ..

theorem chunkCount_le_n (c : Cfg) {len : Nat} (h : len ≤ c.maxf) :
    chunkCount c.toCfgData len ≤ c.n := by
  obtain ⟨hm, hn, -⟩ := Cfg.bounds c
  refine Nat.max_le.mpr ⟨hn, Nat.le_of_lt_succ (Nat.div_lt_of_lt_mul ?_)⟩
  rw [CfgData.maxf] at h
  rw [Nat.mul_succ]
  omega

theorem le_chunkCount_mul (c : Cfg) (len : Nat) : len ≤ chunkCount c.toCfgData len * c.m := by
  obtain ⟨hm, -⟩ := Cfg.bounds c
  have hdiv := Nat.lt_div_mul_add (a := len + (c.m - 1)) hm
  have hmax := Nat.mul_le_mul_right c.m (Nat.le_max_right 1 ((len + (c.m - 1)) / c.m))
  rw [chunkCount]
  omega

theorem chunkPayload_length_le (c : CfgData) (msg : List Byte) (i : Nat) :
    (chunkPayload c msg i).length ≤ c.m := List.length_take_le ..

/-- The first `k` payloads make up the message's first `k × M` bytes. -/
theorem flatMap_chunkPayload_range (c : CfgData) (msg : List Byte) (k : Nat) :
    (List.range k).flatMap (chunkPayload c msg) = msg.take (k * c.m) := by
  induction k with
  | zero => simp
  | succ k ih =>
    rw [List.range_succ, List.flatMap_append, ih, List.flatMap_singleton, Nat.succ_mul,
      List.take_add, chunkPayload]

theorem flatMap_chunkPayload (c : Cfg) (msg : List Byte) :
    (List.range (chunkCount c.toCfgData msg.length)).flatMap (chunkPayload c.toCfgData msg) =
      msg := by
  rw [flatMap_chunkPayload_range, List.take_of_length_le (le_chunkCount_mul c msg.length)]

theorem messageChunk_length_le_obufSize (c : Cfg) (msg : List Byte) (i : Nat) :
    (messageChunk c.toCfgData msg i).length ≤ c.obufSize :=
  calc (messageChunk c.toCfgData msg i).length
    _ ≤ c.wireMax := buildChunk_length_le_wireMax (chunkPayload_length_le ..) ..
    _ ≤ c.mtu := wireMax_le_mtu c
    _ ≤ c.obufSize := mtu_le_obufSize c

theorem m_le_ibufSize (c : Cfg) : c.m ≤ c.ibufSize :=
  calc c.m
    _ ≤ c.plainLen c.m := by rw [CfgData.plainLen]; omega
    _ ≤ c.wireMax := plainLen_le_wireMax (Nat.le_refl _)
    _ ≤ c.mtu := wireMax_le_mtu c
    _ ≤ c.ibufSize := mtu_le_ibufSize c

/-- Every index of a chunk fits the field `A` of the command word: `N` is at most 32. -/
theorem wf_chunkTx_of_lt_chunkCount {c : Cfg} {len i : Nat} (hlen : len ≤ c.maxf)
    (hi : i < chunkCount c.toCfgData len) (first last : Bool) :
    (Instr.chunkTx i first last).wf = true := by
  have hcount := chunkCount_le_n c hlen
  obtain ⟨-, -, hn, -⟩ := Cfg.bounds c
  exact decide_eq_true (by omega)

/-! ### One turn of the send loop -/

theorem omax_of_sameButInput {s t : State} (h : sameButInput s t) : t.omax = s.omax := by
  rw [← h]

theorem omax_of_sameButReads {s t : State} (h : sameButReads s t) : t.omax = s.omax := by
  rw [← h]

theorem obound_of_sameButInput {s t : State} (h : sameButInput s t) : obound t = obound s := by
  rw [obound, obound, omax_of_sameButInput h, cfg_of_sameButInput h]

theorem readOutput_produce {out : List Byte} {s : State} (h : out.length ≤ obound s) (r : Word) :
    ∃ u, readOutput (produce out r s) = .next (u, out) ∧ sameButReads (produce out r s) u := by
  obtain ⟨-, -, -, hlen, hout, -⟩ := producedOutput_produce (r := r) h
  exact readOutput_next hlen (Nat.le_trans h (obound_le s)) hout

/-- With `OLEN = 0` there is no byte to read. -/
theorem readOutput_raiseProducing (c : Cause) (s : State) :
    ∃ u, readOutput (raiseProducing c s) = .next (u, []) ∧
      sameButReads (raiseProducing c s) u :=
  readOutput_next rfl (Nat.zero_le _) fun _ hj => absurd hj (Nat.not_lt_zero _)

section

variable {s : State} {msg : List Byte} {i : Nat}

/-- The script of a turn is `CHUNK_TX` past its input checks, at a state that differs from the one
before in its input alone. -/
theorem serve_sendChunkScript (hlen : msg.length ≤ s.cfg.maxf)
    (hi : i < chunkCount s.cfg.toCfgData msg.length) :
    ∃ v r, sameButInput s v ∧ serve (sendChunkScript s.cfg.toCfgData msg i) s =
      .next (produceBounded (messageChunk s.cfg.toCfgData msg i) r v) := by
  have hpayload := chunkPayload_length_le s.cfg.toCfgData msg i
  obtain ⟨u, hserve, hinput, -, hframe⟩ :=
    serve_ibufScript (Nat.le_trans hpayload (m_le_ibufSize s.cfg))
  have hcfg : u.cfg = s.cfg := cfg_of_sameButInput hframe
  have hm : u.ilen.toNat ≤ u.cfg.m := by rwa [← inputString_length, hinput, hcfg]
  have hexec := exec_chunkTx_of_input_fits (s := acceptTxn u.pending u) (sn := i) (first := i == 0)
    (last := i + 1 == chunkCount s.cfg.toCfgData msg.length)
    (Nat.le_trans hm (m_le_ibufSize u.cfg)) hm
  rw [inputString_acceptTxn, hinput, sendChunk, acceptTxn_cfg, hcfg] at hexec
  exact ⟨acceptTxn u.pending u, _, hframe, (serve_append hserve).trans
    (serve_command (wf_chunkTx_of_lt_chunkCount hlen hi ..) hexec [])⟩

theorem sendTurn_of_serve {t u : State} {w : List Byte}
    (hserve : serve (sendChunkScript s.cfg.toCfgData msg i) s = .next t)
    (hread : readOutput t = .next (u, w)) : sendTurn s.cfg.toCfgData msg i s = .next (u, w) := by
  rw [sendTurn, hserve, andThen_next, hread]

/-- A turn whose chunk fits the output bound hands over the chunk. -/
theorem sendTurn_of_fits (hlen : msg.length ≤ s.cfg.maxf)
    (hi : i < chunkCount s.cfg.toCfgData msg.length)
    (hfits : (messageChunk s.cfg.toCfgData msg i).length ≤ obound s) :
    ∃ v r t u, serve (sendChunkScript s.cfg.toCfgData msg i) s = .next t ∧
      sendTurn s.cfg.toCfgData msg i s = .next (u, messageChunk s.cfg.toCfgData msg i) ∧
      sameButReads t u ∧ producedOutput (messageChunk s.cfg.toCfgData msg i) r v t ∧
      u.cfg = s.cfg ∧ u.omax = s.omax := by
  obtain ⟨v, r, hframe, hserve⟩ := serve_sendChunkScript hlen hi
  have hcfg : v.cfg = s.cfg := cfg_of_sameButInput hframe
  have homax : v.omax = s.omax := omax_of_sameButInput hframe
  rw [← obound_of_sameButInput hframe] at hfits
  rw [produceBounded, if_neg (Nat.not_lt.mpr hfits)] at hserve
  obtain ⟨u, hread, hsame⟩ := readOutput_produce hfits r
  exact ⟨v, r, _, u, hserve, sendTurn_of_serve hserve hread, hsame, producedOutput_produce hfits,
    hsame.cfg.trans hcfg, (omax_of_sameButReads hsame).trans homax⟩

/-- A turn whose chunk does not fit the output bound hands over nothing. -/
theorem sendTurn_of_not_fits (hlen : msg.length ≤ s.cfg.maxf)
    (hi : i < chunkCount s.cfg.toCfgData msg.length)
    (hlong : obound s < (messageChunk s.cfg.toCfgData msg i).length) :
    ∃ v t u, serve (sendChunkScript s.cfg.toCfgData msg i) s = .next t ∧
      sendTurn s.cfg.toCfgData msg i s = .next (u, []) ∧ sameButReads t u ∧
      failedProducing .size v t := by
  obtain ⟨v, r, hframe, hserve⟩ := serve_sendChunkScript hlen hi
  rw [← obound_of_sameButInput hframe] at hlong
  rw [produceBounded, if_pos hlong] at hserve
  obtain ⟨u, hread, hsame⟩ := readOutput_raiseProducing .size v
  exact ⟨v, _, u, hserve, sendTurn_of_serve hserve hread, hsame,
    failedProducing_raiseProducing .size v⟩

/-- An output bound that leaves all of OBUF open, as at reset, admits every chunk of a message. -/
theorem messageChunk_length_le_obound (homax : s.cfg.obufSize ≤ s.omax.toNat) (msg : List Byte)
    (i : Nat) : (messageChunk s.cfg.toCfgData msg i).length ≤ obound s := by
  rw [obound, Nat.min_eq_right homax]
  exact messageChunk_length_le_obufSize s.cfg msg i

end

/-! ### The whole loop -/

theorem sendTurns_next {c : Cfg} {msg : List Byte} {is : List Nat} {s : State} (hcfg : s.cfg = c)
    (homax : c.obufSize ≤ s.omax.toNat) (hlen : msg.length ≤ c.maxf)
    (his : ∀ i ∈ is, i < chunkCount c.toCfgData msg.length) :
    ∃ u, sendTurns c.toCfgData msg is s = .next (u, is.map (messageChunk c.toCfgData msg)) := by
  induction is generalizing s with
  | nil => exact ⟨s, rfl⟩
  | cons i is ih =>
    subst hcfg
    obtain ⟨hi, hrest⟩ := List.forall_mem_cons.mp his
    obtain ⟨-, -, -, t, -, hturn, -, -, hcfg, hbound⟩ :=
      sendTurn_of_fits hlen hi (messageChunk_length_le_obound homax msg i)
    obtain ⟨u, hturns⟩ := ih hcfg (by rwa [hbound]) hrest
    exact ⟨u, by simp only [sendTurns, hturn, hturns, andThen_next, List.map_cons]⟩

section

variable {c : CfgData} {msg : List Byte}

theorem disassemble_of_fits (h : msg.length ≤ c.maxf) : disassemble c msg =
    some ((List.range (chunkCount c msg.length)).map (messageChunk c msg)) :=
  if_neg (Nat.not_lt.mpr h)

theorem disassemble_of_oversized (h : c.maxf < msg.length) : disassemble c msg = none := if_pos h

theorem sendFrame_of_oversized (h : c.maxf < msg.length) (s : State) :
    sendFrame c msg s = .next (s, none) := if_pos h

end

theorem sendFrame_of_fits {s : State} {msg : List Byte} (hlen : msg.length ≤ s.cfg.maxf)
    (homax : s.cfg.obufSize ≤ s.omax.toNat) :
    ∃ u chunks, disassemble s.cfg.toCfgData msg = some chunks ∧
      sendFrame s.cfg.toCfgData msg s = .next (u, some chunks) := by
  obtain ⟨u, hturns⟩ := sendTurns_next rfl homax hlen fun _ => List.mem_range.mp
  refine ⟨u, _, disassemble_of_fits hlen, ?_⟩
  rw [sendFrame, if_neg (Nat.not_lt.mpr hlen), hturns, andThen_next]

/-- Settles O39: `N` is at most 32 and the payloads are the message cut every `M` bytes; a turn is
`CHUNK_TX` on a payload, whose output bound decides between its two ends, and a read of what it
left; the loop is an induction over its turns. -/
theorem sendLoopMakesTheMessageChunks : Obligations.SendLoopMakesTheMessageChunks := by
  refine fun s msg => ⟨
    fun hlong => ⟨sendFrame_of_oversized hlong s, disassemble_of_oversized hlong⟩,
    fun hlen => ⟨one_le_chunkCount .., chunkCount_le_n s.cfg hlen, flatMap_chunkPayload s.cfg msg,
      fun i hi => ?_, sendFrame_of_fits hlen⟩⟩
  have hopen : s.cfg.obufSize ≤ s.omax.toNat → _ :=
    fun homax => messageChunk_length_le_obound homax msg i
  split
  · next hfits =>
    obtain ⟨v, r, t, u, hserve, hturn, hsame, ⟨hcause, -, -, holen, hout, -⟩, -⟩ :=
      sendTurn_of_fits hlen hi hfits
    exact ⟨t, u, _, hserve, hturn, hsame, hopen, hcause, holen, by rwa [holen], rfl⟩
  · next hlong =>
    obtain ⟨v, t, u, hserve, hturn, hsame, hcause, -, -, holen, -⟩ :=
      sendTurn_of_not_fits hlen hi (Nat.lt_of_not_le hlong)
    exact ⟨t, u, _, hserve, hturn, hsame, hopen, hcause, holen, rfl⟩

end Sys2Proof.Proofs
end

section
/-! PROOFS. The statements of 44_frame_rx.md about one chunk: what `CHUNK_RX` does with a chunk it
refuses, with one that fails and with one it accepts. -/

namespace Sys2Proof.Proofs

open Sys2Proof.Machine

/-! ### The case of the algorithm a chunk takes -/

section

variable {s : State}

theorem exec_chunkRx_of_refused (h : s.cfg.ibufSize < s.ilen.toNat ∨ s.cfg.mtu < s.ilen.toNat) :
    exec .chunkRx s = .next (raise .size false s) := by
  rcases execChunkRx_cases s with ⟨_, heq⟩ | ⟨hfit, _⟩
  · exact heq
  · have hmtu := mtu_le_ibufSize s.cfg
    omega

theorem exec_chunkRx_of_le (h : s.ilen.toNat ≤ s.cfg.mtu) :
    exec .chunkRx s = .next (rxChunk (inputString s) s) := by
  rcases execChunkRx_cases s with ⟨hlong, _⟩ | ⟨_, heq⟩
  · have hmtu := mtu_le_ibufSize s.cfg
    omega
  · exact heq

/-- With base64 enabled a chunk behind `SENT_ENC` is taken as encoded (44_frame_rx.md R192). -/
theorem rxBlock_of_encoded {c : CfgData} (hen : c.b64En = true) (run : List Byte) :
    rxBlock c (c.sentEnc :: run) = base64Decode run := by
  simp [rxBlock, hen]

/-- Any other chunk is its own block (44_frame_rx.md R192). -/
theorem rxBlock_of_plain {c : CfgData} {b : Byte} (h : c.b64En = true → b ≠ c.sentEnc)
    (run : List Byte) : rxBlock c (b :: run) = some (b :: run) := by
  simpa [rxBlock] using fun hen heq => absurd heq (h hen)

theorem rxChunk_of_undecodable {w : List Byte} (h : rxBlock s.cfg.toCfgData w = none) :
    rxChunk w s = rxFail .decode (rxClearMessage s) := by
  simp only [rxChunk, h]

theorem rxChunk_of_invalid {w blk : List Byte} (hblk : rxBlock s.cfg.toCfgData w = some blk)
    (h : validate s.cfg.tagw blk = false) :
    rxChunk w s = rxFail .integrity (rxClearMessage s) := by
  simp [rxChunk, hblk, h]

theorem rxChunk_of_validates {w blk : List Byte} (hblk : rxBlock s.cfg.toCfgData w = some blk)
    (h : validate s.cfg.tagw blk = true) : rxChunk w s = rxAccept blk (rxClearMessage s) := by
  simp [rxChunk, hblk, h]

section

variable {h : Header} {p : List Byte}

/-- A valid chunk passes steps 1 to 3 of 44_frame_rx.md R191. -/
theorem exec_chunkRx_of_valid (hv : ValidChunk s.cfg.toCfgData (inputString s) h p) :
    exec .chunkRx s = .next (if h.first then rxFirst h p (rxClearMessage s)
      else rxNext h p (rxClearMessage s)) := by
  obtain ⟨hlen, blk, hblk, hval, rfl, rfl⟩ := hv
  rw [inputString_length] at hlen
  rw [exec_chunkRx_of_le hlen, rxChunk_of_validates hblk hval]
  rfl

theorem exec_chunkRx_of_first (hv : ValidChunk s.cfg.toCfgData (inputString s) h p)
    (hfirst : h.first = true) : exec .chunkRx s = .next (rxFirst h p (rxClearMessage s)) := by
  rw [exec_chunkRx_of_valid hv, if_pos hfirst]

theorem exec_chunkRx_of_not_first (hv : ValidChunk s.cfg.toCfgData (inputString s) h p)
    (hfirst : h.first = false) : exec .chunkRx s = .next (rxNext h p (rxClearMessage s)) := by
  rw [exec_chunkRx_of_valid hv, if_neg (by simp [hfirst])]

theorem rxFirst_of_sn_ne (hsn : h.sn ≠ 0#5) : rxFirst h p s = rxFail .seqFirst s := if_pos hsn

theorem rxFirst_of_fits (hsn : h.sn = 0#5) (hfit : p.length ≤ s.cfg.maxf) :
    rxFirst h p s = rxComplete h.last (accumulating s) (rxOpen h.binary p (rxDiscard s)) := by
  rw [rxFirst, if_neg (not_not_intro hsn), if_neg (Nat.not_lt.mpr hfit)]

theorem rxNext_of_idle (hidle : s.rstate = .idle) :
    rxNext h p s = raise .seqNoFrame false s := if_pos hidle

theorem rxNext_of_sn_ne (hacc : s.rstate = .acc) (hsn : h.sn ≠ s.expSn) :
    rxNext h p s = rxFail .seqGap s := by
  rw [rxNext, if_neg (by simp [hacc]), if_pos hsn]

theorem rxNext_of_fits (hacc : s.rstate = .acc) (hsn : h.sn = s.expSn)
    (hfit : s.rlen + p.length ≤ s.cfg.maxf) :
    rxNext h p s = rxComplete h.last false (rxAppend h.binary p s) := by
  rw [rxNext, if_neg (by simp [hacc]), if_neg (not_not_intro hsn), if_neg (Nat.not_lt.mpr hfit)]

end

end

/-! ### A chunk that is refused or fails -/

/-- `RxFail` after the message is cleared: its effect is the same for every cause
(44_frame_rx.md R201). -/
theorem receptionFailed_rxFail (c : Cause) (s : State) :
    receptionFailed c 0 s (rxFail c (rxClearMessage s)) :=
  ⟨rfl, rfl, rfl, rfl, rfl, rfl, rfl, rfl, fun _ => rfl, rfl, rfl, rfl⟩

/-- Settles O40: the size checks come first, and `raise` is all that follows. -/
theorem chunkRxSizeRefusal : Obligations.ChunkRxSizeRefusal :=
  ⟨decodeWord_encode (i := .chunkRx) rfl, fun _ h => exec_chunkRx_of_refused h⟩

/-- Settles O41: the chunk is taken as encoded, so its block is the failed decoding. -/
theorem chunkRxDecodeFailure : Obligations.ChunkRxDecodeFailure := by
  intro s run hlen hen hinput hdecode
  have hblk : rxBlock s.cfg.toCfgData (inputString s) = none := by
    rw [hinput, rxBlock_of_encoded hen, hdecode]
  refine ⟨_, exec_chunkRx_of_le hlen, ?_⟩
  rw [rxChunk_of_undecodable hblk]
  exact receptionFailed_rxFail .decode s

/-- Settles O42: a block that does not validate ends in `RxFail`. -/
theorem chunkRxIntegrityFailure : Obligations.ChunkRxIntegrityFailure := by
  intro s blk hlen hblk hinvalid
  refine ⟨_, exec_chunkRx_of_le hlen, ?_⟩
  rw [rxChunk_of_invalid hblk hinvalid]
  exact receptionFailed_rxFail .integrity s

/-- Settles O43: the test of `sn` comes first for a first chunk, and its failure is an `RxFail`. -/
theorem firstChunkMustHaveSequenceZero : Obligations.FirstChunkMustHaveSequenceZero := by
  intro s h p hv hfirst hsn
  refine ⟨_, exec_chunkRx_of_first hv hfirst, ?_⟩
  rw [rxFirst_of_sn_ne hsn]
  exact receptionFailed_rxFail .seqFirst s

/-! ### A chunk that is accepted -/

/-- What a `CHUNK_RX` that accepts a chunk leaves: a delivered message when it was the last, an open
frame when it was not (44_frame_rx.md R206). -/
def chunkAccepted (last : Bool) (len : Nat) (sn : BitVec 5) (bin d : Bool) (s t : State) : Prop :=
  if last then messageDelivered len sn bin d s t else frameOpen len sn bin d s t

section

variable {s : State} {h : Header} {p : List Byte}

/-- Completeness of an open frame with no message beside it. -/
theorem chunkAccepted_rxComplete {u : State} (hkeep : keepsAllButReception s u)
    (hacc : u.rstate = .acc) (hvalid : u.msgValid = false) (hlen : u.msgLen = 0)
    (hbin : u.msgBin = false) (last d : Bool) :
    chunkAccepted last u.rlen u.expSn u.frameBin d s (rxComplete last d u) := by
  cases last
  · exact ⟨rfl, rfl, rfl, hacc, rfl, rfl, rfl, hvalid, hlen, hbin, hkeep⟩
  · exact ⟨rfl, rfl, rfl, rfl, rfl, rfl, rfl, rfl, rfl, rfl, hkeep⟩

theorem rxComplete_rbuf (last d : Bool) (s : State) : (rxComplete last d s).rbuf = s.rbuf := by
  cases last <;> rfl

theorem payloadWritten_rxComplete {u : State} {start : Nat}
    (hu : u.rbuf = s.rbuf.writeBytes start p) (last d : Bool) :
    payloadWritten s (rxComplete last d u) start p := by
  intro i
  rw [rxComplete_rbuf, hu, Memory.readByte_writeBytes]

/-- The expected number advances modulo 32 (44_frame_rx.md R200). -/
theorem add_one_eq_ofNat_mod (sn : BitVec 5) : sn + 1#5 = BitVec.ofNat 5 ((sn.toNat + 1) % 32) := by
  apply BitVec.eq_of_toNat_eq
  simp

theorem exec_chunkRx_opens (hv : ValidChunk s.cfg.toCfgData (inputString s) h p)
    (hfirst : h.first = true) (hsn : h.sn = 0#5) (hfit : p.length ≤ s.cfg.maxf) :
    ∃ t, exec .chunkRx s = .next t ∧ payloadWritten s t 0 p ∧
      chunkAccepted h.last p.length 1#5 h.binary (s.rstate == .acc) s t := by
  refine ⟨_, exec_chunkRx_of_first hv hfirst, ?_⟩
  rw [rxFirst_of_fits (s := rxClearMessage s) hsn hfit]
  have hkeep : keepsAllButReception s (rxOpen h.binary p (rxDiscard (rxClearMessage s))) := rfl
  exact ⟨payloadWritten_rxComplete rfl _ _, chunkAccepted_rxComplete hkeep rfl rfl rfl rfl _ _⟩

theorem exec_chunkRx_appends (hv : ValidChunk s.cfg.toCfgData (inputString s) h p)
    (hfirst : h.first = false) (hacc : s.rstate = .acc) (hsn : h.sn = s.expSn)
    (hfit : s.rlen + p.length ≤ s.cfg.maxf) :
    ∃ t, exec .chunkRx s = .next t ∧ payloadWritten s t s.rlen p ∧
      chunkAccepted h.last (s.rlen + p.length) (BitVec.ofNat 5 ((s.expSn.toNat + 1) % 32))
        (s.frameBin || h.binary) false s t := by
  refine ⟨_, exec_chunkRx_of_not_first hv hfirst, ?_⟩
  rw [rxNext_of_fits (s := rxClearMessage s) hacc hsn hfit, ← add_one_eq_ofNat_mod]
  have hkeep : keepsAllButReception s (rxAppend h.binary p (rxClearMessage s)) := rfl
  exact ⟨payloadWritten_rxComplete rfl _ _, chunkAccepted_rxComplete hkeep hacc rfl rfl rfl _ _⟩

end

/-- Settles O47: a first chunk numbered 0 that fits opens a frame, which is then tested for
completeness. -/
theorem firstChunkOpensAFrame : Obligations.FirstChunkOpensAFrame :=
  fun _ _ _ hv hfirst hsn hfit => exec_chunkRx_opens hv hfirst hsn hfit

/-- Settles O48: the expected chunk passes the three tests of a further chunk and is appended, and
the frame is then tested for completeness. -/
theorem expectedChunkIsAppended : Obligations.ExpectedChunkIsAppended :=
  fun _ _ _ hv hfirst hacc hsn hfit => exec_chunkRx_appends hv hfirst hacc hsn hfit

end Sys2Proof.Proofs
end

section
/-! PROOFS. The statements of 44_frame_rx.md about sequences of chunks: what stands in the block
after part of a frame, a whole frame with what the host interleaves, and a frame with a gap. -/

namespace Sys2Proof.Proofs

open Sys2Proof.Machine

/-! ### What stands in the block after some chunks of a frame -/

/-- The payloads of a frame's chunks, joined. -/
def framePayload (bs : List Received) : List Byte := bs.flatMap Received.payload

/-- The OR of the binary flags of a frame's chunks. -/
def frameBinary (bs : List Received) : Bool := bs.any fun b => b.header.binary

theorem framePayload_append (as bs : List Received) :
    framePayload (as ++ bs) = framePayload as ++ framePayload bs := List.flatMap_append

theorem framePayload_singleton (b : Received) : framePayload [b] = b.payload :=
  List.flatMap_singleton ..

theorem frameBinary_singleton (b : Received) : frameBinary [b] = b.header.binary :=
  Bool.or_false _

theorem frameBinary_append (as bs : List Received) :
    frameBinary (as ++ bs) = (frameBinary as || frameBinary bs) := List.any_append

/-- RBUF holds the bytes from index 0. -/
def rbufHolds (bytes : List Byte) (s : State) : Prop :=
  ∀ i < bytes.length, s.rbuf.readByte i = bytes[i]?

/-- A frame is open, and the chunks `bs` are what it has accumulated. -/
def frameHeld (bs : List Received) (s : State) : Prop :=
  s.rstate = .acc ∧ s.rlen = (framePayload bs).length ∧ s.expSn = BitVec.ofNat 5 bs.length ∧
    s.frameBin = frameBinary bs ∧ rbufHolds (framePayload bs) s

/-- No frame is open, and the chunks `bs` make up the delivered message. -/
def messageHeld (bs : List Received) (s : State) : Prop :=
  s.rstate = .idle ∧ s.msgValid = true ∧ s.msgLen = (framePayload bs).length ∧
    s.msgBin = frameBinary bs ∧ rbufHolds (framePayload bs) s

/-- What shows after the last of the chunks `bs` was accepted, `last` telling whether it was its
frame's last one. -/
def chunkTaken (bs : List Received) (last d : Bool) (t : State) : Prop :=
  t.cause = .none ∧ t.disc = d ∧
    if last then t.res = 2#32 ∧ messageHeld bs t else t.res = 1#32 ∧ frameHeld bs t

/-- The block can go on after the chunks `pre` of a frame: it may begin one in any state, and `d`
tells whether that discards an open one; further chunks need those before them held. -/
inductive ReadyAfter (s : State) : List Received → Bool → Prop
  | anew : ReadyAfter s [] (s.rstate == .acc)
  | within {pre : List Received} : pre ≠ [] → frameHeld pre s → ReadyAfter s pre false

/-- The chunk `b` is valid and continues a frame of which `pre` were received. -/
def NextChunk (c : CfgData) (pre : List Received) (b : Received) : Prop :=
  ValidChunk c b.wire b.header b.payload ∧ b.header.sn = BitVec.ofNat 5 pre.length ∧
    b.header.first = pre.isEmpty ∧ (framePayload (pre ++ [b])).length ≤ c.maxf

section

variable {s t : State} {pre : List Received} {b : Received} {d : Bool}

theorem rbufHolds_append {bytes p : List Byte} (h : rbufHolds bytes s)
    (hp : payloadWritten s t bytes.length p) : rbufHolds (bytes ++ p) t := by
  intro i hi
  rw [List.length_append] at hi
  rw [hp i]
  split
  · next hin => rw [List.getElem?_append_right hin.1]
  · next hout =>
    have hlt : i < bytes.length := by omega
    rw [h i hlt, List.getElem?_append_left hlt]

theorem rbufHolds_of_readyAfter (h : ReadyAfter s pre d) : rbufHolds (framePayload pre) s := by
  cases h with
  | anew => exact fun i hi => absurd hi (Nat.not_lt_zero i)
  | within _ hheld =>
    obtain ⟨-, -, -, -, hbytes⟩ := hheld
    exact hbytes

theorem readyAfter_of_sameReception (hsame : sameReception s t) (h : ReadyAfter s pre d) :
    ReadyAfter t pre d := by
  obtain ⟨-, hrbuf, hrstate, hrlen, hexp, hbin, -⟩ := hsame
  cases h with
  | anew => exact hrstate ▸ .anew
  | within hne hheld =>
    refine .within hne ?_
    rwa [frameHeld, rbufHolds, hrstate, hrlen, hexp, hbin, hrbuf]

theorem readyAfter_of_frameHeld_concat (h : frameHeld (pre ++ [b]) s) :
    ReadyAfter s (pre ++ [b]) false := .within (by simp) h

theorem cfg_of_keepsAllButReception (h : keepsAllButReception s t) : t.cfg = s.cfg := by
  rw [← h]

theorem cfg_of_chunkAccepted {last bin : Bool} {len : Nat} {sn : BitVec 5}
    (h : chunkAccepted last len sn bin d s t) : t.cfg = s.cfg := by
  cases last
  all_goals
    obtain ⟨-, -, -, -, -, -, -, -, -, -, hkeep⟩ := h
    exact cfg_of_keepsAllButReception hkeep

theorem chunkTaken_of_chunkAccepted {bs : List Received} {last : Bool}
    (h : chunkAccepted last (framePayload bs).length (BitVec.ofNat 5 bs.length) (frameBinary bs) d
      s t) (hbytes : rbufHolds (framePayload bs) t) : chunkTaken bs last d t := by
  cases last
  · obtain ⟨hcause, hres, hdisc, hstate, hlen, hexp, hbin, -⟩ := h
    exact ⟨hcause, hdisc, hres, hstate, hlen, hexp, hbin, hbytes⟩
  · obtain ⟨hcause, hres, hdisc, hstate, -, -, -, hvalid, hlen, hbin, -⟩ := h
    exact ⟨hcause, hdisc, hres, hstate, hvalid, hlen, hbin, hbytes⟩

/-- The two ways a chunk is accepted, a first one and a further one, end alike. -/
theorem exec_chunkRx_of_readyAfter (hready : ReadyAfter s pre d)
    (hnext : NextChunk s.cfg.toCfgData pre b) (hin : inputString s = b.wire) :
    ∃ t, exec .chunkRx s = .next t ∧ payloadWritten s t (framePayload pre).length b.payload ∧
      chunkAccepted b.header.last ((framePayload pre).length + b.payload.length)
        (BitVec.ofNat 5 (pre.length + 1)) (frameBinary pre || b.header.binary) d s t := by
  obtain ⟨hv, hsn, hfirst, hfit⟩ := hnext
  rw [← hin] at hv
  rw [framePayload_append, framePayload_singleton, List.length_append] at hfit
  cases hready with
  | anew => simpa [framePayload, frameBinary] using exec_chunkRx_opens hv hfirst hsn (by omega)
  | within hne hheld =>
    obtain ⟨hacc, hlen, hexp, hbin, -⟩ := hheld
    have hmod : BitVec.ofNat 5 ((s.expSn.toNat + 1) % 32) = BitVec.ofNat 5 (pre.length + 1) := by
      apply BitVec.eq_of_toNat_eq
      simp [hexp]
    have happends := exec_chunkRx_appends hv (by simpa [hfirst] using hne) hacc
      (hsn.trans hexp.symm) (by rwa [hlen])
    rwa [hmod, hlen, hbin] at happends

theorem exec_chunkRx_of_nextChunk (hready : ReadyAfter s pre d)
    (hnext : NextChunk s.cfg.toCfgData pre b) (hin : inputString s = b.wire) :
    ∃ t, exec .chunkRx s = .next t ∧ t.cfg = s.cfg ∧
      chunkTaken (pre ++ [b]) b.header.last d t := by
  obtain ⟨t, ht, hwritten, haccepted⟩ := exec_chunkRx_of_readyAfter hready hnext hin
  refine ⟨t, ht, cfg_of_chunkAccepted haccepted, chunkTaken_of_chunkAccepted (s := s) ?_ ?_⟩
  · rwa [framePayload_append, framePayload_singleton, frameBinary_append, frameBinary_singleton,
      List.length_append, List.length_append]
  · rw [framePayload_append, framePayload_singleton]
    exact rbufHolds_append (rbufHolds_of_readyAfter hready) hwritten

end

/-! ### One turn of the receiving host -/

section

variable {s t : State} {pre : List Received} {b : Received} {d : Bool}

theorem length_le_ibufSize_of_validChunk {c : Cfg} {w : List Byte} {h : Header} {p : List Byte}
    (hv : ValidChunk c.toCfgData w h p) : w.length ≤ c.ibufSize := by
  obtain ⟨hlen, -⟩ := hv
  exact Nat.le_trans hlen (mtu_le_ibufSize c)

theorem serve_round_of_nextChunk {r : Round} (hallowed : r.allowed s.cfg.toCfgData)
    (hchunk : r.chunk = b.wire) (hready : ReadyAfter s pre d)
    (hnext : NextChunk s.cfg.toCfgData pre b) :
    ∃ t, serve r.txns s = .next t ∧ t.cfg = s.cfg ∧ chunkTaken (pre ++ [b]) b.header.last d t := by
  have hw : r.chunk.length ≤ s.cfg.ibufSize := by
    obtain ⟨hv, -⟩ := hnext
    exact hchunk ▸ length_le_ibufSize_of_validChunk hv
  obtain ⟨u, hserve, hin, hsame⟩ := serve_round hallowed hw
  have hcfg : u.cfg = s.cfg := hsame.1
  rw [← hcfg] at hnext
  obtain ⟨t, ht, hkeep, htaken⟩ := exec_chunkRx_of_nextChunk
    (readyAfter_of_sameReception hsame hready) hnext (hin.trans hchunk)
  exact ⟨t, hserve.trans ht, hkeep.trans hcfg, htaken⟩

/-- A turn with nothing interleaved. -/
def plainRound (w : List Byte) : Round := ⟨[], w, []⟩

theorem plainRound_allowed (c : CfgData) (w : List Byte) : (plainRound w).allowed c :=
  ⟨fun _ hx => absurd hx List.not_mem_nil, fun _ hx => absurd hx List.not_mem_nil⟩

theorem plainRound_txns (w : List Byte) : (plainRound w).txns = feedChunk w := rfl

theorem receiveRounds_cons {r : Round} (h : serve r.txns s = .next t) (rs : List Round) :
    receiveRounds (r :: rs) s = (receiveRounds rs t).map (t :: ·) := by
  simp only [receiveRounds, h]

theorem receiveAll_cons {w : List Byte} (h : serve (feedChunk w) s = .next t)
    (ws : List (List Byte)) : receiveAll (w :: ws) s = (receiveAll ws t).map (t :: ·) := by
  simp only [receiveAll, h]

theorem receiveAll_eq_receiveRounds (ws : List (List Byte)) (s : State) :
    receiveAll ws s = receiveRounds (ws.map plainRound) s := by
  induction ws generalizing s with
  | nil => rfl
  | cons w ws ih => simp only [receiveAll, List.map_cons, receiveRounds, plainRound_txns, ih]

theorem serve_feedChunk_of_nextChunk (hready : ReadyAfter s pre d)
    (hnext : NextChunk s.cfg.toCfgData pre b) :
    ∃ t, serve (feedChunk b.wire) s = .next t ∧ t.cfg = s.cfg ∧
      chunkTaken (pre ++ [b]) b.header.last d t :=
  serve_round_of_nextChunk (r := plainRound b.wire) (plainRound_allowed _ _) rfl hready hnext

section

variable {w : List Byte} {h : Header} {p : List Byte}

theorem serve_feedChunk_of_not_first (hv : ValidChunk s.cfg.toCfgData w h p)
    (hfirst : h.first = false) :
    ∃ u, serve (feedChunk w) s = .next (rxNext h p u) ∧ u.cfg = s.cfg ∧ u.rstate = s.rstate ∧
      u.expSn = s.expSn ∧ u.msgValid = false := by
  obtain ⟨u, hserve, rfl, hcfg, -, hstate, -, hexp, -⟩ :=
    serve_round (plainRound_allowed _ w) (length_le_ibufSize_of_validChunk hv)
  rw [← hcfg] at hv
  exact ⟨rxClearMessage u, hserve.trans (exec_chunkRx_of_not_first hv hfirst), hcfg, hstate, hexp,
    rfl⟩

/-- A wrong sequence number while `ACC` loses the frame (44_frame_rx.md R198). -/
theorem serve_feedChunk_of_sn_ne (hv : ValidChunk s.cfg.toCfgData w h p) (hfirst : h.first = false)
    (hacc : s.rstate = .acc) (hsn : h.sn ≠ s.expSn) :
    ∃ t, serve (feedChunk w) s = .next t ∧ t.cfg = s.cfg ∧ t.cause = .seqGap ∧ t.disc = true ∧
      t.rstate = .idle ∧ t.msgValid = false := by
  obtain ⟨u, hserve, hcfg, hstate, hexp, hmsg⟩ := serve_feedChunk_of_not_first hv hfirst
  rw [← hstate] at hacc
  rw [rxNext_of_sn_ne hacc (hexp ▸ hsn)] at hserve
  exact ⟨_, hserve, hcfg, rfl, (accumulating_iff u).mpr hacc, rfl, hmsg⟩

/-- A further chunk while `IDLE` finds no frame (44_frame_rx.md R197). -/
theorem serve_feedChunk_of_idle (hv : ValidChunk s.cfg.toCfgData w h p) (hfirst : h.first = false)
    (hidle : s.rstate = .idle) :
    ∃ t, serve (feedChunk w) s = .next t ∧ t.cause = .seqNoFrame ∧ t.rstate = .idle ∧
      t.msgValid = false := by
  obtain ⟨u, hserve, -, hstate, -, hmsg⟩ := serve_feedChunk_of_not_first hv hfirst
  rw [← hstate] at hidle
  rw [rxNext_of_idle hidle] at hserve
  exact ⟨_, hserve, rfl, hidle, hmsg⟩

end

end

/-! ### A whole frame -/

section

variable {s t : State} {ts : List State} {pre rest bs : List Received} {b : Received} {d : Bool}

theorem nextChunk_of_wholeFrame {c : CfgData} (h : WholeFrame c (pre ++ b :: rest)) :
    NextChunk c pre b ∧ b.header.last = rest.isEmpty := by
  obtain ⟨-, hfit, hchunks⟩ := h
  obtain ⟨hv, hsn, hfirst, hlast⟩ := hchunks pre.length b (by simp)
  refine ⟨⟨hv, hsn, ?_, ?_⟩, ?_⟩
  · rw [hfirst]
    cases pre <;> rfl
  · rw [List.append_cons, ← framePayload, framePayload_append, List.length_append] at hfit
    omega
  · rw [hlast]
    cases rest <;> simp

theorem frameReceived_singleton (h : chunkTaken bs true d t) :
    frameReceived d (frameBinary bs) (framePayload bs) [t] := by
  obtain ⟨hcause, hdisc, hres, hstate, hvalid, hlen, hbin, hbytes⟩ := h
  exact ⟨by simpa using hcause, by simp, by simpa using hdisc, by simp, t, rfl, hres, hstate,
    hvalid, hlen, hbin, hbytes⟩

theorem frameReceived_cons {bin : Bool} {msg : List Byte} (h : chunkTaken bs false d t)
    (hrest : frameReceived false bin msg ts) : frameReceived d bin msg (t :: ts) := by
  obtain ⟨hcause, hdisc, hres, -⟩ := h
  obtain ⟨hcauses, hress, hhead, htail, last, hlast, hmsg⟩ := hrest
  cases ts with
  | nil => cases hlast
  | cons u us =>
    refine ⟨List.forall_mem_cons.mpr ⟨hcause, hcauses⟩, ?_, by simpa using hdisc,
      List.forall_mem_cons.mpr ⟨hhead u rfl, htail⟩, last, ?_, hmsg⟩
    · rw [List.dropLast_cons_cons]
      exact List.forall_mem_cons.mpr ⟨hres, hress⟩
    · rw [List.getLast?_cons_cons]
      exact hlast

/-- The rest of a whole frame, given turn by turn to a block that holds what came before. -/
theorem receiveRounds_of_readyAfter {rounds : List Round} (hne : rest ≠ [])
    (hrounds : rounds.map Round.chunk = rest.map Received.wire)
    (hallowed : ∀ r ∈ rounds, r.allowed s.cfg.toCfgData)
    (hframe : WholeFrame s.cfg.toCfgData (pre ++ rest)) (hready : ReadyAfter s pre d) :
    ∃ ts, receiveRounds rounds s = some ts ∧ ts.length = rest.length ∧
      frameReceived d (frameBinary (pre ++ rest)) (framePayload (pre ++ rest)) ts := by
  induction rest generalizing s pre d rounds with
  | nil => exact absurd rfl hne
  | cons b rest ih =>
    obtain ⟨r, rounds, rfl, hchunk, hrounds⟩ := List.map_eq_cons_iff.mp hrounds
    obtain ⟨hr, hallowed⟩ := List.forall_mem_cons.mp hallowed
    obtain ⟨hnext, hlast⟩ := nextChunk_of_wholeFrame hframe
    obtain ⟨t, ht, hcfg, htaken⟩ := serve_round_of_nextChunk hr hchunk hready hnext
    rw [hlast] at htaken
    rw [receiveRounds_cons ht]
    cases rest with
    | nil =>
      obtain rfl := List.map_eq_nil_iff.mp hrounds
      exact ⟨[t], rfl, rfl, frameReceived_singleton htaken⟩
    | cons b' rest =>
      obtain ⟨-, -, -, hheld⟩ := id htaken
      rw [← hcfg] at hallowed hframe
      rw [List.append_cons] at hframe
      obtain ⟨ts, hts, hlen, hreceived⟩ := ih (List.cons_ne_nil _ _) hrounds hallowed hframe
        (readyAfter_of_frameHeld_concat hheld)
      rw [← List.append_cons] at hreceived
      exact ⟨t :: ts, by rw [hts]; rfl, by rw [List.length_cons, hlen]; rfl,
        frameReceived_cons htaken hreceived⟩

theorem receiveRounds_of_wholeFrame {rounds : List Round}
    (hrounds : rounds.map Round.chunk = bs.map Received.wire)
    (hallowed : ∀ r ∈ rounds, r.allowed s.cfg.toCfgData) (hframe : WholeFrame s.cfg.toCfgData bs) :
    ∃ ts, receiveRounds rounds s = some ts ∧ ts.length = bs.length ∧
      frameReceived (s.rstate == .acc) (frameBinary bs) (framePayload bs) ts :=
  receiveRounds_of_readyAfter (pre := []) hframe.1 hrounds hallowed hframe .anew

theorem receiveAll_of_wholeFrame (hframe : WholeFrame s.cfg.toCfgData bs) :
    ∃ ts, receiveAll (bs.map Received.wire) s = some ts ∧ ts.length = bs.length ∧
      frameReceived (s.rstate == .acc) (frameBinary bs) (framePayload bs) ts := by
  rw [receiveAll_eq_receiveRounds]
  refine receiveRounds_of_wholeFrame ?_ ?_ hframe
  · rw [List.map_map]
    exact List.map_id' _
  · simpa using fun b _ => plainRound_allowed _ b.wire

theorem receiveAll_of_acc (hframe : WholeFrame s.cfg.toCfgData bs) (hacc : s.rstate = .acc) :
    ∃ ts, receiveAll (bs.map Received.wire) s = some ts ∧ ts.length = bs.length ∧
      frameReceived true (frameBinary bs) (framePayload bs) ts := by
  simpa [hacc] using receiveAll_of_wholeFrame hframe

end

/-- Settles O50: a whole frame is received from any state, and an open frame shows in `DISC` alone;
A's first chunk leaves such a frame. -/
theorem restartAssemblesTheNewFrame : Obligations.RestartAssemblesTheNewFrame := by
  intro s bs hframe
  refine ⟨receiveAll_of_acc hframe, fun a hv hfirst hlast hsn hfit => ?_⟩
  have hnext : NextChunk s.cfg.toCfgData [] a :=
    ⟨hv, hsn, hfirst, by rwa [List.nil_append, framePayload_singleton]⟩
  obtain ⟨ta, hta, hcfg, htaken⟩ := serve_feedChunk_of_nextChunk .anew hnext
  rw [hlast] at htaken
  obtain ⟨hcause, -, -, hacc, -⟩ := htaken
  rw [← hcfg] at hframe
  obtain ⟨ts, hts, hreceived⟩ := receiveAll_of_acc hframe hacc
  exact ⟨ta, ts, by rw [receiveAll_cons hta, hts]; rfl, hcause, hacc, hreceived⟩

/-! ### A frame with a gap -/

/-- Settles O49: the first two chunks are those of a frame in order; the number 3 is not the
expected 2, and after its failure the block is `IDLE`. -/
theorem gapLosesTheFrame : Obligations.GapLosesTheFrame := by
  intro s w0 w1 w3 w4 h0 h1 h3 h4 p0 p1 p3 p4 hidle hv0 hv1 hv3 hv4 hfirst0 hlast0 hsn0 hfirst1
    hlast1 hsn1 hfirst3 hsn3 hfirst4 hfit
  have hnext0 : NextChunk s.cfg.toCfgData [] ⟨w0, h0, p0⟩ :=
    ⟨hv0, hsn0, hfirst0, by simpa [framePayload] using Nat.le_trans (Nat.le_add_right ..) hfit⟩
  obtain ⟨t0, ht0, hcfg0, htaken0⟩ := serve_feedChunk_of_nextChunk .anew hnext0
  rw [hlast0] at htaken0
  obtain ⟨-, -, hres0, hheld0⟩ := htaken0
  have hnext1 : NextChunk s.cfg.toCfgData [⟨w0, h0, p0⟩] ⟨w1, h1, p1⟩ :=
    ⟨hv1, hsn1, hfirst1, by simpa [framePayload] using hfit⟩
  rw [← hcfg0] at hnext1
  obtain ⟨t1, ht1, hcfg1, htaken1⟩ :=
    serve_feedChunk_of_nextChunk (readyAfter_of_frameHeld_concat hheld0) hnext1
  rw [hlast1] at htaken1
  obtain ⟨-, -, hres1, hacc1, -, hexp1, -⟩ := htaken1
  have hgap : h3.sn ≠ t1.expSn := by
    rw [hsn3, hexp1]
    exact (by decide : 3#5 ≠ 2#5)
  rw [← hcfg0, ← hcfg1] at hv3 hv4
  obtain ⟨t3, ht3, hcfg3, hcause3, hdisc3, hidle3, hmsg3⟩ :=
    serve_feedChunk_of_sn_ne hv3 hfirst3 hacc1 hgap
  rw [← hcfg3] at hv4
  obtain ⟨t4, ht4, hlost⟩ := serve_feedChunk_of_idle hv4 hfirst4 hidle3
  have hrun : receiveAll [w0, w1, w3, w4] s = some [t0, t1, t3, t4] := by
    rw [receiveAll_cons ht0, receiveAll_cons ht1, receiveAll_cons ht3, receiveAll_cons ht4]
    rfl
  obtain ⟨hacc0, -⟩ := hheld0
  exact ⟨t0, t1, t3, t4, hrun, hres0, hacc0, hres1, hacc1, hcause3, hdisc3, hidle3, hmsg3, hlost⟩

end Sys2Proof.Proofs
end

section
/-! PROOFS. The statement of 44_frame_rx.md that joins the two paths: what `BuildChunk` makes is
valid to the receiver, so the chunks of a disassembled message are a whole frame. -/

namespace Sys2Proof.Proofs

open Sys2Proof.Machine

/-! ### A built chunk is valid -/

section

variable {c : CfgData} {p : List Byte}

theorem validChunk_of_block {w : List Byte} {b : Byte} (hlen : w.length ≤ c.mtu)
    (h : rxBlock c w = some (chunkBlock c.tagw b p)) : ValidChunk c w (unpack b) p :=
  ⟨hlen, _, h, validate_chunkBlock .., rfl, blockPayload_chunkBlock ..⟩

/-- Base64 is enabled where a chunk is binary, and the receiver takes it as encoded; a plain chunk
it takes as its block unless its header byte is `SENT_ENC`. -/
theorem rxBlock_buildChunk {sn : Nat} {first last : Bool}
    (hplain : c.b64En = true → pack sn false first last ≠ c.sentEnc) :
    rxBlock c (buildChunk c sn first last p) =
      some (chunkBlock c.tagw (chunkHeader c sn first last p) p) := by
  cases hbin : chunkBinary c p with
  | false =>
    rw [buildChunk_of_plain hbin, chunkHeader, hbin]
    exact rxBlock_of_plain hplain _
  | true =>
    obtain ⟨hen, -⟩ := Bool.and_eq_true_iff.mp hbin
    rw [buildChunk_of_binary hbin, rxBlock_of_encoded hen, base64Decode_base64Encode, chunkHeader,
      hbin]

/-- The plain headers of the send loop are those `PlainHdr(N)` lists (00_scope.md R8). -/
theorem plainHdr_pack {i : Nat} (hi : i < c.n) (hn : c.n ≤ 32) (last : Bool) :
    c.plainHdr (pack i false (i == 0) last) = true := by
  have hpack : (pack i false (i == 0) last).toNat =
      i + 64 * (i == 0).toNat + 128 * last.toNat := by
    rw [pack_eq_headerByte, headerByte_toNat, BitVec.toNat_ofNat, Nat.mod_eq_of_lt (by omega)]
    rfl
  cases i with
  | zero => cases last <;> rfl
  | succ k =>
    have hflag : (k + 1 == 0).toNat = 0 := rfl
    simp only [CfgData.plainHdr, Bool.or_eq_true, Bool.and_eq_true, decide_eq_true_eq, hpack, hflag]
    cases last with
    | false => exact .inl (.inr (by rw [Bool.toNat_false]; omega))
    | true => exact .inr (by rw [Bool.toNat_true]; omega)

end

/-! ### The chunks of a message as the receiver sees them -/

/-- Chunk `i` of a message, with what it carries. -/
def receivedChunk (c : CfgData) (msg : List Byte) (i : Nat) : Received where
  wire := messageChunk c msg i
  header := ⟨BitVec.ofNat 5 i, chunkBinary c (chunkPayload c msg i), i == 0,
    i + 1 == chunkCount c msg.length⟩
  payload := chunkPayload c msg i

/-- The chunks of a message, with what they carry. -/
def receivedChunks (c : CfgData) (msg : List Byte) : List Received :=
  (List.range (chunkCount c msg.length)).map (receivedChunk c msg)

section

variable {c : Cfg} {msg : List Byte}

theorem pack_ne_sentEnc (hsafe : c.rtSafe = true) {i : Nat} (hi : i < c.n) (last : Bool)
    (hen : c.b64En = true) : pack i false (i == 0) last ≠ c.sentEnc := by
  obtain ⟨-, -, hn, -⟩ := Cfg.bounds c
  intro heq
  have hplain := plainHdr_pack hi hn last
  rw [heq] at hplain
  simp [CfgData.rtSafe, hen, hplain] at hsafe

theorem validChunk_receivedChunk (hsafe : c.rtSafe = true) {i : Nat} (hi : i < c.n) :
    ValidChunk c.toCfgData (messageChunk c.toCfgData msg i)
      (receivedChunk c.toCfgData msg i).header (chunkPayload c.toCfgData msg i) := by
  have hlen : (messageChunk c.toCfgData msg i).length ≤ c.mtu :=
    Nat.le_trans (buildChunk_length_le_wireMax (chunkPayload_length_le ..) ..) (wireMax_le_mtu c)
  have hvalid := validChunk_of_block hlen (rxBlock_buildChunk (pack_ne_sentEnc hsafe hi _))
  rwa [chunkHeader, unpack_pack] at hvalid

theorem framePayload_receivedChunks : framePayload (receivedChunks c.toCfgData msg) = msg := by
  rw [framePayload, receivedChunks, List.flatMap_map]
  exact flatMap_chunkPayload c msg

theorem chunkBinary_flatMap (c : CfgData) {α : Type} (f : α → List Byte) (l : List α) :
    chunkBinary c (l.flatMap f) = l.any fun a => chunkBinary c (f a) := by
  cases hen : c.b64En <;> simp [chunkBinary, isBinary, hen, List.any_flatMap]

/-- The message holds a sentinel exactly when one of its payloads does. -/
theorem frameBinary_receivedChunks :
    frameBinary (receivedChunks c.toCfgData msg) = chunkBinary c.toCfgData msg := by
  rw [← congrArg (chunkBinary c.toCfgData) (flatMap_chunkPayload c msg), chunkBinary_flatMap,
    frameBinary, receivedChunks, List.any_map]
  rfl

theorem wholeFrame_receivedChunks (hsafe : c.rtSafe = true) (hlen : msg.length ≤ c.maxf) :
    WholeFrame c.toCfgData (receivedChunks c.toCfgData msg) := by
  have hcount := one_le_chunkCount c.toCfgData msg.length
  have hn := chunkCount_le_n c hlen
  refine ⟨?_, ?_, fun i b hb => ?_⟩
  · refine List.ne_nil_of_length_pos ?_
    rwa [receivedChunks, List.length_map, List.length_range]
  · rwa [← framePayload, framePayload_receivedChunks]
  · obtain ⟨hi, rfl⟩ := List.getElem?_eq_some_iff.mp hb
    simp only [receivedChunks, List.length_map, List.length_range, List.getElem_map,
      List.getElem_range] at hi ⊢
    exact ⟨validChunk_receivedChunk hsafe (by omega), rfl, rfl, rfl⟩

end

/-- Settles O51: the chunks of a message are a whole frame with the message as its payload, and a
whole frame is received whatever bystanders the host interleaves. -/
theorem reassemblyOfADisassembledMessage : Obligations.ReassemblyOfADisassembledMessage := by
  intro s msg hsafe hlen
  refine ⟨_, disassemble_of_fits hlen, fun rounds hrounds hallowed => ?_⟩
  have hwires : (receivedChunks s.cfg.toCfgData msg).map Received.wire =
      (List.range (chunkCount s.cfg.toCfgData msg.length)).map (messageChunk s.cfg.toCfgData msg) :=
    List.map_map
  obtain ⟨ts, hts, hcount, hreceived⟩ := receiveRounds_of_wholeFrame (hrounds.trans hwires.symm)
    hallowed (wholeFrame_receivedChunks hsafe hlen)
  rw [framePayload_receivedChunks, frameBinary_receivedChunks] at hreceived
  exact ⟨ts, hts, by rw [hcount, ← hwires, List.length_map], hreceived⟩

end Sys2Proof.Proofs
end

section
/-! PROOFS. The statements of 45_system.md: the words the spec writes out, the issue of a command by
a write of `CMD`, and what a command that fails leaves. -/

namespace Sys2Proof.Proofs

open Sys2Proof.Machine

/-! ### The words the spec writes out -/

/-- Settles O4: each word is the encoding of its command. -/
theorem writtenOutWordsDecode : Obligations.WrittenOutWordsDecode :=
  ⟨decodeWord_encode (i := .sreset) rfl,
    decodeWord_encode (i := .fnvUpdate 0x61#8) rfl,
    decodeWord_encode (i := .hdrPack 2 false false true) rfl,
    decodeWord_encode (i := .hdrUnpack 0xC0#8) rfl,
    decodeWord_encode (i := .b64Enc) rfl,
    decodeWord_encode (i := .chunkTx 0 true false) rfl,
    decodeWord_encode (i := .chunkRx) rfl⟩

/-! ### The issue of a command -/

section

variable {s : State} {w : Word} {rest : List Txn}

theorem issueCommand_of_decodeWord {i : Instr} (h : decodeWord w = .ok i) :
    issueCommand w s = exec i s := by
  rw [issueCommand, h]

/-- A word that selects no row is no command (30_encoding.md R86). -/
theorem decodeWord_of_no_row (h : ∀ r ∈ opcodeTable, r.selects w = false) :
    decodeWord w = .error (illegalReason w) := by
  have hnone : opcodeTable.find? (OpcodeRow.selects · w) = none :=
    List.find?_eq_none.mpr fun r hr => by simp [h r hr]
  rw [decodeWord, hnone]

theorem issueCommand_of_no_row (h : ∀ r ∈ opcodeTable, r.selects w = false) :
    issueCommand w s = .next (illegalCommand s) := by
  rw [issueCommand, decodeWord_of_no_row h]

theorem step_of_pending {x : Txn} (h : s.pending = x :: rest) :
    step s = performTxn x (acceptTxn rest s) := by
  rw [step, h]

/-- A write of register 0 issues the word as a command (45_system.md R231). -/
theorem step_of_pending_cmd (h : s.pending = .csrWrite 0 w :: rest) :
    step s = issueCommand w (acceptTxn rest s) := by
  rw [step_of_pending h, performTxn_csrWrite rfl]
  rfl

end

/-- Settles O5: the decoder answers well-formed commands only, and the step issues the word at the
accepted state. -/
theorem stepRunsTheDecodedCommand : Obligations.StepRunsTheDecodedCommand := by
  intro s w rest i hpending hdecode
  obtain ⟨hwf, -⟩ := encode_of_decodeWord hdecode
  refine ⟨hwf, ?_⟩
  rw [step_of_pending_cmd hpending, issueCommand_of_decodeWord hdecode]
  rfl

/-- Settles O6: the word is issued at the accepted state, and with no row of its own it is the
illegal command. -/
theorem illegalWordOnlyRecordsItsCause : Obligations.IllegalWordOnlyRecordsItsCause := by
  intro s w rest hpending hnorow
  rw [step_of_pending_cmd hpending, issueCommand_of_no_row hnorow]
  rfl

/-! ### Every way the reception of a chunk can end -/

/-- The causes with which a chunk discards any open frame (44_frame_rx.md R201). -/
def discardCauses : List Cause := [.decode, .integrity, .seqFirst, .seqGap, .overflow]

/-- The states a chunk past the size check can leave (44_frame_rx.md R203): any open frame is
discarded, there was no frame to append to, or the chunk is accepted, which discards a frame only
when it opens another. -/
inductive ReceptionEnd (s : State) : State → Prop
  | discarded {c : Cause} : c ∈ discardCauses → ReceptionEnd s (rxFail c (rxClearMessage s))
  | noFrame : s.rstate = .idle → ReceptionEnd s (raise .seqNoFrame false (rxClearMessage s))
  | accepted (last d : Bool) (u : State) :
      (d = true → s.rstate = .acc) → ReceptionEnd s (rxComplete last d u)

section

variable {s t : State}

theorem receptionEnd_rxFirst (h : Header) (p : List Byte) (s : State) :
    ReceptionEnd s (rxFirst h p (rxClearMessage s)) := by
  rcases rxFirst_cases h p (rxClearMessage s) with ⟨_, heq⟩ | ⟨_, _, heq⟩ | ⟨_, _, heq⟩ <;> rw [heq]
  · exact .discarded (c := .seqFirst) (by decide)
  · exact .discarded (c := .overflow) (by decide)
  · exact .accepted _ _ _ (accumulating_iff s).mp

theorem receptionEnd_rxNext (h : Header) (p : List Byte) (s : State) :
    ReceptionEnd s (rxNext h p (rxClearMessage s)) := by
  rcases rxNext_cases h p (rxClearMessage s) with
    ⟨hidle, heq⟩ | ⟨_, _, heq⟩ | ⟨_, _, _, heq⟩ | ⟨_, _, _, heq⟩ <;> rw [heq]
  · exact .noFrame hidle
  · exact .discarded (by decide)
  · exact .discarded (by decide)
  · exact .accepted _ _ _ nofun

theorem receptionEnd_rxChunk (w : List Byte) (s : State) : ReceptionEnd s (rxChunk w s) := by
  rcases rxChunk_cases w s with ⟨_, heq⟩ | ⟨blk, _, ⟨_, heq⟩ | ⟨_, heq⟩⟩ <;> rw [heq]
  · exact .discarded (by decide)
  · exact .discarded (by decide)
  · obtain ⟨h, p, heq | heq⟩ := rxAccept_cases blk (rxClearMessage s) <;> rw [heq]
    exacts [receptionEnd_rxFirst h p s, receptionEnd_rxNext h p s]

theorem rxComplete_cause (last d : Bool) (s : State) : (rxComplete last d s).cause = .none := by
  cases last <;> rfl

theorem rxComplete_disc (last d : Bool) (s : State) : (rxComplete last d s).disc = d := by
  cases last <;> rfl

theorem ne_seqNoFrame_of_mem_discardCauses {c : Cause} (h : c ∈ discardCauses) :
    c ≠ .seqNoFrame := by
  rintro rfl
  exact absurd h (by decide)

theorem ne_illegal_of_mem_discardCauses {c : Cause} (h : c ∈ discardCauses) : c ≠ .illegal := by
  rintro rfl
  exact absurd h (by decide)

/-- With no frame open nothing is discarded, and `RLEN` stays as it is (44_frame_rx.md R197). -/
theorem receptionFailed_seqNoFrame (hidle : s.rstate = .idle) :
    receptionFailed .seqNoFrame s.rlen s (raise .seqNoFrame false (rxClearMessage s)) :=
  ⟨rfl, rfl, by rw [hidle]; rfl, hidle, rfl, rfl, rfl, rfl, fun _ => rfl, rfl, rfl, rfl⟩

theorem receptionFailed_of_receptionEnd (h : ReceptionEnd s t) (hfail : t.cause ≠ .none) :
    receptionFailed t.cause (if t.cause = .seqNoFrame then s.rlen else 0) s t := by
  cases h with
  | discarded hc =>
    rw [rxFail_cause, if_neg (ne_seqNoFrame_of_mem_discardCauses hc)]
    exact receptionFailed_rxFail _ s
  | noFrame hidle => exact receptionFailed_seqNoFrame hidle
  | accepted last d u => exact absurd (rxComplete_cause last d u) hfail

theorem cause_ne_illegal_of_receptionEnd (h : ReceptionEnd s t) : t.cause ≠ .illegal := by
  cases h with
  | discarded hc => exact ne_illegal_of_mem_discardCauses hc
  | noFrame => exact nofun
  | accepted last d u => rw [rxComplete_cause]; exact nofun

/-- `DISC` tells of a discarded frame, so there was one (10_state.md R35). -/
theorem acc_of_receptionEnd_disc (h : ReceptionEnd s t) (hdisc : t.disc = true) :
    s.rstate = .acc := by
  cases h with
  | discarded => exact (accumulating_iff s).mp hdisc
  | noFrame => cases hdisc
  | accepted last d u hd => exact hd (rxComplete_disc last d u ▸ hdisc)

end

/-! ### How a command can end -/

/-- Settles O57: each shared operation with which a command fails has its effect, and the others
record no cause. -/
theorem failedCommandEffect : Obligations.FailedCommandEffect := by
  intro i s t h hfail
  cases commandEnd_of_exec h with
  | reset | hashed | succeeded | produced => exact absurd rfl hfail
  | refusedInput hplain =>
    rw [if_neg (by simp [hplain])]
    split
    · exact .inl (failedPlain_raise .size s)
    · exact failedPlain_raise .size s
  | failedOutput c hprod =>
    rw [if_pos hprod]
    exact failedProducing_raiseProducing c s
  | received hi =>
    subst hi
    exact .inr (receptionFailed_of_receptionEnd (receptionEnd_rxChunk _ s) hfail)

section

variable {i : Instr} {s t : State}

theorem exec_res_of_failed (h : exec i s = .next t) (hfail : t.cause ≠ .none) : t.res = 0#32 := by
  cases commandEnd_of_exec h with
  | reset | hashed | succeeded | produced => exact absurd rfl hfail
  | refusedInput | failedOutput => rfl
  | received =>
    obtain ⟨_, hres, _⟩ := receptionFailed_of_receptionEnd (receptionEnd_rxChunk _ s) hfail
    exact hres

theorem produceBounded_cause_ne_illegal (out : List Byte) (r : Word) (s : State) :
    (produceBounded out r s).cause ≠ .illegal := by
  rcases produceBounded_cases out r s with ⟨_, heq⟩ | ⟨_, heq⟩ <;> rw [heq] <;> exact nofun

/-- A producing command fails with `E_SIZE`, or `B64_DEC` with `E_DECODE` (60_exceptions.md R250). -/
theorem exec_cause_ne_illegal_of_producing (h : exec i s = .next t) (hprod : isProducing i = true) :
    t.cause ≠ .illegal := by
  have hsize : (raiseProducing .size s).cause ≠ .illegal := nofun
  have hbounded := fun out r => produceBounded_cause_ne_illegal out r s
  cases i <;> injection h with h <;> subst h
  case cksCopy | b64Enc => exact withInput_ind (P := (·.cause ≠ .illegal)) hsize (hbounded _ _)
  case b64Dec =>
    refine withInput_ind (P := (·.cause ≠ .illegal)) hsize ?_
    cases base64Decode (inputString s) with
    | none => exact nofun
    | some out => exact hbounded _ _
  case chunkTx =>
    refine withInput_ind (P := (·.cause ≠ .illegal)) hsize ?_
    split
    · exact hsize
    · exact hbounded _ _
  all_goals cases hprod

theorem exec_cause_ne_illegal (h : exec i s = .next t) : t.cause ≠ .illegal := by
  cases commandEnd_of_exec h with
  | reset | hashed | succeeded | refusedInput | produced => exact nofun
  | failedOutput c hprod => exact exec_cause_ne_illegal_of_producing h hprod
  | received => exact cause_ne_illegal_of_receptionEnd (receptionEnd_rxChunk _ s)

/-- Only the reception of a chunk discards a frame (10_state.md R35). -/
theorem exec_disc (h : exec i s = .next t) (hdisc : t.disc = true) :
    i = .chunkRx ∧ s.rstate = .acc := by
  cases commandEnd_of_exec h with
  | received hi => exact ⟨hi, acc_of_receptionEnd_disc (receptionEnd_rxChunk _ s) hdisc⟩
  | _ => cases hdisc

end

/-- Settles O56: a command answers, and each clause is a case analysis over the ways it can end. -/
theorem everyCommandSucceedsOrFails : Obligations.EveryCommandSucceedsOrFails := by
  intro i s
  obtain ⟨t, h⟩ := exec_next i s
  exact ⟨t, h, exec_res_of_failed h, exec_cause_ne_illegal h, exec_disc h⟩

end Sys2Proof.Proofs
end

section
/-! PROOFS. The statements of 60_exceptions.md about a valid chunk that `CHUNK_RX` drops: there is no
frame to append it to, its number is not the expected one, or its payload would overflow RBUF. -/

namespace Sys2Proof.Proofs

open Sys2Proof.Machine

section

variable {s : State} {h : Header} {p : List Byte}

/-- A first chunk's payload has RBUF to itself (44_frame_rx.md R199). -/
theorem rxFirst_of_overflow (hsn : h.sn = 0#5) (hlong : s.cfg.maxf < p.length) :
    rxFirst h p s = rxFail .overflow s := by
  rw [rxFirst, if_neg (not_not_intro hsn), if_pos hlong, rxFail]

/-- A further chunk's payload comes behind the `RLEN` bytes of the frame (44_frame_rx.md R199). -/
theorem rxNext_of_overflow (hacc : s.rstate = .acc) (hsn : h.sn = s.expSn)
    (hlong : s.cfg.maxf < s.rlen + p.length) : rxNext h p s = rxFail .overflow s := by
  rw [rxNext, if_neg (by simp [hacc]), if_neg (not_not_intro hsn), if_pos hlong]

end

/-- Settles O44: with no frame open a further chunk fails the first test and there is nothing to
discard. -/
theorem nonFirstChunkWithoutFrameIsDropped : Obligations.NonFirstChunkWithoutFrameIsDropped := by
  intro s h p hv hfirst hidle
  refine ⟨_, exec_chunkRx_of_not_first hv hfirst, ?_⟩
  rw [rxNext_of_idle (s := rxClearMessage s) hidle]
  exact ⟨receptionFailed_seqNoFrame hidle, rfl⟩

/-- Settles O45: the failed test of `sn` is an `RxFail`, and `DISC` tells of the frame that was
open. -/
theorem wrongSequenceNumberDiscardsTheFrame : Obligations.WrongSequenceNumberDiscardsTheFrame := by
  intro s h p hv hfirst hacc hsn
  refine ⟨_, exec_chunkRx_of_not_first hv hfirst, ?_⟩
  rw [rxNext_of_sn_ne (s := rxClearMessage s) hacc hsn]
  exact ⟨receptionFailed_rxFail .seqGap s, (accumulating_iff s).mpr hacc⟩

/-- Settles O46: a first chunk and a further one fail the length test, each with the bound that holds
for it, and both failures are the same `RxFail`. -/
theorem overflowDiscardsTheFrame : Obligations.OverflowDiscardsTheFrame := by
  rintro s h p hv (⟨hfirst, hsn, hlong⟩ | ⟨hfirst, hacc, hsn, hlong⟩)
  · refine ⟨_, exec_chunkRx_of_first hv hfirst, ?_⟩
    rw [rxFirst_of_overflow (s := rxClearMessage s) hsn hlong]
    exact receptionFailed_rxFail .overflow s
  · refine ⟨_, exec_chunkRx_of_not_first hv hfirst, ?_⟩
    rw [rxNext_of_overflow (s := rxClearMessage s) hacc hsn hlong]
    exact receptionFailed_rxFail .overflow s

end Sys2Proof.Proofs
end

section
/-! PROOFS. The statement of 70_reset_and_hazards.md that the configuration is fixed: no command, no
transaction and no step changes it. -/

namespace Sys2Proof.Proofs

open Sys2Proof.Machine

section

variable {s t : State}

/-- `SRESET` included: the configuration is not among what it resets (10_state.md R47). -/
theorem exec_keeps_cfg {i : Instr} (h : exec i s = .next t) : t.cfg = s.cfg := by
  cases commandEnd_of_exec h with
  | reset => exact softReset_cfg s
  | hashed w => exact setHash_cfg w s
  | succeeded r => exact succeed_cfg r false s
  | refusedInput => exact raise_cfg .size false s
  | failedOutput c => exact raiseProducing_cfg c s
  | produced out r => exact produce_cfg out r s
  | received => exact cfg_of_keepsAllButReception (keepsAllButReception_rxChunk _ s)

/-- A register write reaches `HASH`, `ILEN` and `OMAX` alone, and a `CFG` register is read-only
(10_state.md R38, R43). -/
theorem performTxn_keeps_cfg {x : Txn} (h : performTxn x s = .next t) : t.cfg = s.cfg := by
  rcases performTxn_next h with ⟨r, rfl⟩ | rfl | ⟨w, rfl⟩ | ⟨w, rfl⟩ | ⟨w, rfl⟩ | ⟨i, b, _, rfl⟩ |
    rfl | ⟨i, hexec⟩
  · exact respond_cfg r s
  · rfl
  · rfl
  · rfl
  · rfl
  · rfl
  · exact raise_cfg .illegal false s
  · exact exec_keeps_cfg hexec

end

/-- Settles O55: a step is no transaction or one, and taking a transaction up keeps the configuration
as performing it does. -/
theorem configurationIsConstant : Obligations.ConfigurationIsConstant := by
  intro s t hstep
  rcases step_next hstep with ⟨_, rfl⟩ | ⟨x, rest, _, hx⟩
  · rfl
  · calc
      t.cfg = (acceptTxn rest s).cfg := performTxn_keeps_cfg hx
      _ = s.cfg := acceptTxn_cfg rest s

end Sys2Proof.Proofs
end
